-- ==== Sys2Proof/Word.lean ====
section
/-! DEFINITION. The word types of the core: bytes, 32-bit words, 16-byte blocks (00_scope.md R8, R16, R18). -/

namespace Sys2Proof

/-- A byte: 8 bits (R16). -/
abbrev Byte := BitVec 8

/-- A word: 32 bits (R16); also a byte address of the slave interface (R70). -/
abbrev Word := BitVec 32

/-- A 16-byte sequence: a key or a cipher block (R8, R120). Byte 0 comes first. -/
abbrev Block := Vector Byte 16

end Sys2Proof
end

