-- ==== Sys2Proof/Syntax.lean ====
section
/-! DEFINITION. The commands of HPNG-CMD version 1 (30_encoding.md R103), the host's accesses (20_memory.md R70),
the registers and buffers they name, and the events that drive the core (00_scope.md R6). -/

namespace Sys2Proof

/-- The eleven commands, one constructor per row of the opcode table (R103). No command has an operand field (R102). -/
inductive Instr where
  /-- 0x0 NOP (R180) -/
  | nop
  /-- 0x1 ENC_BLOCK (R122) -/
  | encBlock
  /-- 0x2 DEC_BLOCK (R123) -/
  | decBlock
  /-- 0x3 PAD (R133) -/
  | pad
  /-- 0x4 UNPAD (R134) -/
  | unpad
  /-- 0x5 ENCRYPT (R142) -/
  | encrypt
  /-- 0x6 DECRYPT (R143) -/
  | decrypt
  /-- 0x7 EMBED (R152) -/
  | embed
  /-- 0x8 EXTRACT (R166) -/
  | extract
  /-- 0x9 HIDE (R154) -/
  | hide
  /-- 0xA REVEAL (R167) -/
  | reveal
deriving DecidableEq, Repr

/-- The three byte buffers of the engine (R56, R57, R58). -/
inductive Buffer where
  /-- the plaintext message (R56) -/
  | msg
  /-- the ciphertext or padded plaintext (R57) -/
  | ct
  /-- the carrier (R58) -/
  | car
deriving DecidableEq, Repr

/-- What a 4-aligned offset of region REG names (R31, R37, R46 to R55, R72). -/
inductive Reg where
  | id
  | caps0
  | caps1
  | cmd
  | status
  | irqen
  | msgLen
  | ctLen
  | carLen
  | offset
  | key (w : Fin 4)
  | blkIn (w : Fin 4)
  | blkOut (w : Fin 4)
  | reserved
deriving DecidableEq, Repr

/-- The two access sizes of the slave interface, 1 and 4 bytes (R70). -/
inductive AccessSize where
  | byte
  | word
deriving DecidableEq, Repr

/-- One host access: an address, a size, a direction and, for a write, 32 bits of data (R70). In the syntax of R106:
`rd8`/`rd32` and `wr8`/`wr32`. -/
inductive HostAccess where
  | read (a : Word) (n : AccessSize)
  | write (a : Word) (n : AccessSize) (v : Word)
deriving DecidableEq, Repr

/-- What can happen to the core next: a host access, a turn of the engine, or a reset (R6, R83, R230). -/
inductive Event where
  | access (h : HostAccess)
  | engine
  | rst
deriving DecidableEq, Repr

end Sys2Proof
end

