-- ==== Sys2Proof/WellFormed.lean ====
section
/-! DEFINITION. Which command words and commands are well formed (30_encoding.md R100, R101, R102, R104). -/

namespace Sys2Proof

/-- RSV is 0 (R100). -/
def reservedBitsZero (w : Word) : Bool := w.extractLsb' 4 28 == 0

/-- OP is one of the eleven operation numbers (R101, R103). -/
def opAssigned (w : Word) : Bool := decide ((w.extractLsb' 0 4).toNat ≤ 10)

/-- A command word that some command has: every other word is reserved (R104). -/
def wfCommandWord (w : Word) : Bool := reservedBitsZero w && opAssigned w

/-- Every command is well formed as syntax: it carries no immediate, no register specifier and no mode bit (R102). -/
def Instr.wf (_ : Instr) : Bool := true

end Sys2Proof
end

