-- ==== Sys2Proof/Decode.lean ====
section
/-! DEFINITION. The decoder and the encoder of command words (30_encoding.md R100 to R105, opcode_table.json). -/

namespace Sys2Proof

/-- Why a command word is ILLEGAL (R101, R104). Both complete with `IllegalCommand` (R208). -/
inductive Illegal where
  /-- RSV, bits 31:4, is not 0 -/
  | reservedBits
  /-- OP is 0xB..0xF -/
  | reservedOp
deriving DecidableEq, Repr

/-- OP, bits 3:0 (R100). -/
def opField (w : Word) : Nat := (w.extractLsb' 0 4).toNat

/-- RSV, bits 31:4 (R100). -/
def rsvField (w : Word) : Nat := (w.extractLsb' 4 28).toNat

/-- The command of an operation number (R103). -/
def commandOf (op : Nat) : Option Instr :=
  match op with
  | 0x0 => some .nop
  | 0x1 => some .encBlock
  | 0x2 => some .decBlock
  | 0x3 => some .pad
  | 0x4 => some .unpad
  | 0x5 => some .encrypt
  | 0x6 => some .decrypt
  | 0x7 => some .embed
  | 0x8 => some .extract
  | 0x9 => some .hide
  | 0xA => some .reveal
  | _ => none

/-- `decode(w)` (R101): total on every word; an ILLEGAL word is rejected by name. -/
def decode (w : Word) : Except Illegal Instr :=
  if rsvField w = 0 then
    match commandOf (opField w) with
    | some i => .ok i
    | none => .error .reservedOp
  else .error .reservedBits

/-- The CMD word of a command (R103). -/
def encode (i : Instr) : Word :=
  match i with
  | .nop => 0x00000000
  | .encBlock => 0x00000001
  | .decBlock => 0x00000002
  | .pad => 0x00000003
  | .unpad => 0x00000004
  | .encrypt => 0x00000005
  | .decrypt => 0x00000006
  | .embed => 0x00000007
  | .extract => 0x00000008
  | .hide => 0x00000009
  | .reveal => 0x0000000A

/-- The CMD word whose low `nbits` bits are those of `w`, every other bit 0. A command is exactly one 32-bit word (R105),
delivered whole by one 4-byte write of CMD, so there is no byte order to lay out. -/
def commandWord (nbits w : Nat) : Word := BitVec.ofNat 32 (w % 2 ^ nbits)

/-- What the decoder reads from the opcode table's word of `nbits` bits. -/
def decodeTableWord (nbits w : Nat) : Option Instr :=
  match decode (commandWord nbits w) with
  | .ok i => some i
  | .error _ => none

end Sys2Proof
end

