-- ==== Sys2Proof/Config.lean ====
section
/-! DEFINITION. What an implementation or the environment fixes and the spec leaves open (00_scope.md R9 to R14,
92_eei_decisions.md 'Open parameters'). Every constant here is opaque: nothing can be proved of its value. -/

namespace Sys2Proof

/-- The two capacity parameters, legal by construction: NBLK = `nblkPred + 1` lies in 1..4096 (R9) and
CAR_CAP = `4 * (carWordsPred + 1)` is a multiple of 4 in 4..2^31 (R10). -/
structure Params where
  nblkPred : Fin 4096
  carWordsPred : Fin 536870912
deriving DecidableEq, Repr, Inhabited

/-- The two external ports. `encipher` and `decipher` are the cipher's `E` and `D` from (key, block) to block (R11, R120).
`rng n b` answers the offset request of draw number `n` with bound `B = b + 1`: some `r` with `r < B` (R12). -/
structure Ports where
  encipher : Block → Block → Block
  decipher : Block → Block → Block
  rng : Nat → (b : Nat) → Fin (b + 1)

/-- NBLK and CAR_CAP of this implementation (R9, R10). DESIGN CHOICE: opaque (log 6, safe). -/
opaque Config.params : Params

/-- `E` of the external cipher (R11). DESIGN CHOICE: opaque (log 5, safe). -/
opaque Config.encipher : Block → Block → Block

/-- `D` of the external cipher (R11). DESIGN CHOICE: opaque (log 5, safe). -/
opaque Config.decipher : Block → Block → Block

/-- The RNG port's answers (R12). DESIGN CHOICE: a free value in range (log 4, safe). -/
opaque Config.rng : Nat → (b : Nat) → Fin (b + 1)

/-- The ports of this implementation. -/
def Config.ports : Ports := { encipher := Config.encipher, decipher := Config.decipher, rng := Config.rng }

/-- `draw_undef()`: what a read of an UNDEFINED cell returns (R13, R89, R91), by draw number, buffer and index: every step
reads a cell at most once, so every read has a draw of its own. DESIGN CHOICE: a free value (log 3, safe). -/
opaque Config.undef : Nat → Buffer → Nat → Byte

/-- The fresh draw of a host read whose value the spec leaves open: a read while BUSY (R189) or the data of a read
answered with bus error (R218), by draw number. DESIGN CHOICE: a free value (log 7, safe). -/
opaque Config.anyWord : Nat → Word

/-- CORE_BASE: where the platform places the core (R70). No rule of the core reads it (log 13). -/
opaque Config.coreBase : Word

/-- IRQ_LINE: where the platform routes `irq` (R216). No rule of the core reads it (log 13). -/
opaque Config.irqLine : Nat

end Sys2Proof
end

