-- ==== Sys2Proof/Machine/State.lean ====
section
/-! DEFINITION. The state of the core (10_state.md R30), its reset value (R63), and the reasons a step can stop. -/

namespace Sys2Proof.Machine

/-- The error codes (60_exceptions.md R200). The reserved codes 0xB..0xF have no name: nothing writes them (R211). -/
inductive ErrCode where
  | ok
  | invalidKeyLength
  | invalidBlockSize
  | invalidCiphertextLength
  | invalidPadding
  | carrierTooSmall
  | missingOffsetOrLength
  | ioError
  | illegalCommand
  | lengthOutOfRange
  | offsetOutOfRange
deriving DecidableEq, Repr

/-- The engine state ENG (R59). -/
inductive Eng where
  | idle
  | busy
deriving DecidableEq, Repr

/-- Four 32-bit registers with indices 0..3: KEY0..3 (R51), BLK_IN0..3 (R53), BLK_OUT0..3 (R54). -/
structure Quad where
  w0 : Word
  w1 : Word
  w2 : Word
  w3 : Word
deriving DecidableEq, Repr

/-- The cells of one buffer that are WRITTEN, by index: an index with no entry is UNDEFINED (R61). Canonical form:
strictly rising indices (`Memory.wf`). -/
abbrev Memory := List Host.Cell

/-- The bus answer to a host access (R70, R218). The data of `readError` is any value. -/
inductive BusAnswer where
  | readOkay (v : Word)
  | readError (v : Word)
  | writeOkay
  | writeError
deriving DecidableEq, Repr

/-- Why a step stops with a fault. -/
inductive Fault where
  /-- A completion was about to write a code the core never raises: InvalidBlockSize (R202) or IoError (R207). Raised by
  `complete` alone, as 93_implementation_defined.md section 1 asks ('fault if ever written by the core'). Safe: the
  model stops where the spec says that the implementation is wrong; no command reaches it. -/
  | forbiddenCode (c : ErrCode)
deriving DecidableEq, Repr

/-- Why a step is refused. -/
inductive Refusal where
  /-- The command has no meaning yet. Raised only by an arm of `exec`; no arm raises it now. Safe: the model stops. -/
  | notModelled (mnemonic : String)
deriving DecidableEq, Repr

/-- The state of the core (R30), and four fields of the model's own (`params`, `tick`, `events`, `answer`). -/
structure State where
  /-- MSG_LEN (R32) -/
  msgLen : Word
  /-- CT_LEN (R33) -/
  ctLen : Word
  /-- CAR_LEN (R34) -/
  carLen : Word
  /-- OFFSET (R35) -/
  offset : Word
  /-- CMD (R49) -/
  cmd : Word
  /-- ENG (R59); STATUS.BUSY is its view (R38) -/
  eng : Eng
  /-- STATUS.DONE (R39) -/
  done : Bool
  /-- STATUS.ERRCODE (R40) -/
  errCode : ErrCode
  /-- STATUS.KEYMASK (R41) -/
  keyMask : BitVec 4
  /-- STATUS.OFF_VALID (R42) -/
  offValid : Bool
  /-- STATUS.LEN_VALID (R43) -/
  lenValid : Bool
  /-- STATUS.BUSYWR (R44) -/
  busyWr : Bool
  /-- IRQEN.DONE_IE (R50) -/
  doneIe : Bool
  /-- KEY0..KEY3 (R51) -/
  key : Quad
  /-- BLK_IN0..BLK_IN3 (R53) -/
  blkIn : Quad
  /-- BLK_OUT0..BLK_OUT3 (R54) -/
  blkOut : Quad
  /-- MSG with its marks (R56, R61) -/
  msg : Memory
  /-- CT with its marks (R57, R61) -/
  ct : Memory
  /-- CAR with its marks (R58, R61) -/
  car : Memory
  /-- the model's own: NBLK and CAR_CAP of this core, which no step changes (log 6) -/
  params : Params
  /-- the model's own: the number of the next free draw (log 3) -/
  tick : Nat
  /-- the model's own: what happens next, in order (log 1, log 2) -/
  events : List Event
  /-- the model's own: what the bus answered to the last host access (log 8) -/
  answer : Option BusAnswer
deriving DecidableEq, Repr

/-- Four registers that hold 0. -/
def Quad.zero : Quad := { w0 := 0, w1 := 0, w2 := 0, w3 := 0 }

/-- The core right after reset (R63, R231): every register 0, every flag 0, ENG IDLE, every buffer cell UNDEFINED. The
model's own fields: the configuration's parameters, draw number 0, no event pending, no access answered (log 8). -/
def State.reset : State where
  msgLen := 0
  ctLen := 0
  carLen := 0
  offset := 0
  cmd := 0
  eng := .idle
  done := false
  errCode := .ok
  keyMask := 0
  offValid := false
  lenValid := false
  busyWr := false
  doneIe := false
  key := Quad.zero
  blkIn := Quad.zero
  blkOut := Quad.zero
  msg := []
  ct := []
  car := []
  params := Config.params
  tick := 0
  events := []
  answer := none

end Sys2Proof.Machine
end

