-- ==== Sys2Proof/Machine/Ops.lean ====
section
/-! DEFINITION. The named operations over buffers, registers and the command lifecycle: reading and writing cells
(20_memory.md R89, R90), start (30_encoding.md R107), completion (R109 to R112) and reset (70_reset_and_hazards.md R231). -/

namespace Sys2Proof.Machine

/-! ## Capacities -/

/-- NBLK (R9): 1..4096. -/
def nblk (p : Params) : Nat := p.nblkPred.val + 1

/-- BUF_CAP, in bytes (R9). -/
def bufCap (p : Params) : Nat := 16 * nblk p

/-- CAR_CAP, in bytes (R10). -/
def carCap (p : Params) : Nat := 4 * (p.carWordsPred.val + 1)

/-- How many cells a buffer has (R56, R57, R58). -/
def capacity (p : Params) (b : Buffer) : Nat :=
  match b with
  | .msg => bufCap p
  | .ct => bufCap p
  | .car => carCap p

/-! ## The cells of one buffer -/

/-- The byte last written at an index, or `none` where the cell is UNDEFINED (R61). -/
def Memory.read (m : Memory) (a : Nat) : Option Byte :=
  match m with
  | [] => none
  | (b, w) :: rest => if a = b then some w else Memory.read rest a

/-- Store a byte and mark its cell WRITTEN (R90), keeping the indices rising. -/
def Memory.write (m : Memory) (a : Nat) (v : Byte) : Memory :=
  match m with
  | [] => [(a, v)]
  | (b, w) :: rest =>
    if a < b then (a, v) :: (b, w) :: rest
    else if a = b then (a, v) :: rest
    else (b, w) :: Memory.write rest a v

/-- `MemWrite` (R20): store a sequence from index `i` on. -/
def Memory.writeRange (m : Memory) (i : Nat) (vs : List Byte) : Memory :=
  match vs with
  | [] => m
  | v :: rest => Memory.writeRange (m.write i v) (i + 1) rest

/-- The canonical form: strictly rising indices, so that equal buffers are equal lists. -/
abbrev Memory.wf (m : Memory) : Prop := List.Pairwise (fun c d => c.1 < d.1) m

/-- Every entry lies inside the buffer. -/
abbrev Memory.below (m : Memory) (cap : Nat) : Prop := ∀ c ∈ m, c.1 < cap

/-! ## The buffers of a state -/

/-- The cells of a buffer. -/
def State.buf (s : State) (b : Buffer) : Memory :=
  match b with
  | .msg => s.msg
  | .ct => s.ct
  | .car => s.car

/-- A state with one buffer's cells replaced. -/
def State.setBuf (s : State) (b : Buffer) (m : Memory) : State :=
  match b with
  | .msg => { s with msg := m }
  | .ct => { s with ct := m }
  | .car => { s with car := m }

/-- Read of one cell (R89, R91): the byte last written there, or the step's `UNDEF` draw for that cell. -/
def State.readByte (s : State) (b : Buffer) (i : Nat) : Byte :=
  ((s.buf b).read i).getD (Config.undef s.tick b i)

/-- `MemRead(buf, i, n)` (R20). -/
def State.memRead (s : State) (b : Buffer) (i n : Nat) : List Byte :=
  (List.range n).map (fun t => s.readByte b (i + t))

/-- `MemWrite(buf, i, |vs|, vs)` (R20, R90). -/
def State.memWrite (s : State) (b : Buffer) (i : Nat) (vs : List Byte) : State :=
  s.setBuf b ((s.buf b).writeRange i vs)

/-! ## Registers -/

/-- Read register `w` of a group of four. -/
def Quad.get (q : Quad) (w : Fin 4) : Word :=
  match w with
  | 0 => q.w0
  | 1 => q.w1
  | 2 => q.w2
  | 3 => q.w3

/-- Write register `w` of a group of four. -/
def Quad.set (q : Quad) (w : Fin 4) (v : Word) : Quad :=
  match w with
  | 0 => { q with w0 := v }
  | 1 => { q with w1 := v }
  | 2 => { q with w2 := v }
  | 3 => { q with w3 := v }

/-- `CT_LEN <- v`, by the host or the engine: sets LEN_VALID (R33, R43). -/
def State.writeCtLen (s : State) (v : Word) : State := { s with ctLen := v, lenValid := true }

/-- `OFFSET <- v`, by the host or the engine: sets OFF_VALID (R35, R42). -/
def State.writeOffset (s : State) (v : Word) : State := { s with offset := v, offValid := true }

/-- The result of PAD, ENCRYPT and HIDE (R133, R142, R154): `MemWrite(CT, 0, |y|, y); CT_LEN <- |y|; LEN_VALID <- 1`. -/
def State.putCiphertext (s : State) (y : List Byte) : State :=
  (s.memWrite .ct 0 y).writeCtLen (BitVec.ofNat 32 y.length)

/-- The result of UNPAD, DECRYPT and REVEAL (R134, R143, R167): `MemWrite(MSG, 0, |r|, r); MSG_LEN <- |r|`. -/
def State.putPlaintext (s : State) (r : List Byte) : State :=
  { s.memWrite .msg 0 r with msgLen := BitVec.ofNat 32 r.length }

/-! ## The command lifecycle -/

/-- Start (R107): `CMD <- w; ENG <- BUSY; STATUS.DONE <- 0; STATUS.ERRCODE <- 0`. -/
def State.start (s : State) (w : Word) : State :=
  { s with cmd := w, eng := .busy, done := false, errCode := .ok }

/-- The completion fields (R112): `ENG <- IDLE; STATUS.DONE <- 1; STATUS.ERRCODE <- code`. The step's free draws are used
up, so the model's draw counter moves on (log 3). -/
def State.completed (s : State) (code : ErrCode) : State :=
  { s with eng := .idle, done := true, errCode := code, tick := s.tick + 1 }

/-- The two codes the core never writes (R202, R207). -/
def forbidden (code : ErrCode) : Bool := code == .invalidBlockSize || code == .ioError

/-- Completion with a code: the only fault of the model is a code the core never writes (93 section 1). -/
def complete (code : ErrCode) (s : State) : Host.Outcome State Fault Refusal :=
  if forbidden code then .fault (.forbiddenCode code) else .next (s.completed code)

/-- The completion step of a command (R109 to R111), given what its rule computes from the state `s` it started in: the
state with all its writes, or the code it raises. A command that raises writes the completion fields alone. -/
def finish (s : State) (r : Except ErrCode State) : Host.Outcome State Fault Refusal :=
  match r with
  | .ok t => complete .ok t
  | .error code => complete code s

/-- Reset (R231): every piece of the spec's state at its value of R63, a running command aborted. The configuration, the
draw counter and the pending events are the model's own and stay (log 12). -/
def State.resetStep (s : State) : State :=
  { State.reset with params := s.params, tick := s.tick, events := s.events }

end Sys2Proof.Machine
end

