-- ==== Sys2Proof/Machine/Operands.lean ====
section
/-! DEFINITION. The implicit operands of the commands (30_encoding.md R102, R103): the key, the block registers, and the
byte lanes of a word (10_state.md R52, R55; 20_memory.md R74, R75). A length or index register is read as the integer it
spells, `toNat` (R17). -/

namespace Sys2Proof.Machine

/-- Byte lane `b` of a word: bits `8*b+7 : 8*b` (R52, R55, R74). -/
def lane (v : Word) (b : Nat) : Byte := v.extractLsb' (8 * b) 8

/-- The word with four given byte lanes, lane 0 lowest (R74). -/
def wordOf (b0 b1 b2 b3 : Byte) : Word :=
  b0.setWidth 32 ||| b1.setWidth 32 <<< 8 ||| b2.setWidth 32 <<< 16 ||| b3.setWidth 32 <<< 24

/-- The 16 bytes of four registers: byte `4*w + b` is lane `b` of register `w` (R52, R55). -/
def Quad.bytes (q : Quad) : Block :=
  Vector.ofFn (fun i : Fin 16 => lane (q.get (Fin.ofNat 4 (i.val / 4))) (i.val % 4))

/-- Four registers from 16 bytes (R55). -/
def Quad.ofBytes (s : Block) : Quad where
  w0 := wordOf s[0] s[1] s[2] s[3]
  w1 := wordOf s[4] s[5] s[6] s[7]
  w2 := wordOf s[8] s[9] s[10] s[11]
  w3 := wordOf s[12] s[13] s[14] s[15]

/-- The key `K` (R52). -/
def State.keyBytes (s : State) : Block := s.key.bytes

/-- `blkin()` (R55). -/
def State.blkinBytes (s : State) : Block := s.blkIn.bytes

/-- `BLK_OUT <- y` (R55). -/
def State.putBlkOut (s : State) (y : Block) : State := { s with blkOut := Quad.ofBytes y }

end Sys2Proof.Machine
end

