-- ==== Sys2Proof/Machine/Flags.lean ====
section
/-! DEFINITION. The STATUS register, its fields and what they drive (10_state.md R37 to R45, R62; 60_exceptions.md R200),
and the conditions the commands check (R121, R151, R206, R209). -/

namespace Sys2Proof.Machine

/-- The 4-bit code of an error (R200). -/
def ErrCode.bits (c : ErrCode) : BitVec 4 :=
  match c with
  | .ok => 0x0
  | .invalidKeyLength => 0x1
  | .invalidBlockSize => 0x2
  | .invalidCiphertextLength => 0x3
  | .invalidPadding => 0x4
  | .carrierTooSmall => 0x5
  | .missingOffsetOrLength => 0x6
  | .ioError => 0x7
  | .illegalCommand => 0x8
  | .lengthOutOfRange => 0x9
  | .offsetOutOfRange => 0xA

/-- STATUS.BUSY (R38). -/
def State.busy (s : State) : Bool := s.eng == .busy

/-- A one-bit field at bit `n` of a word. -/
def bitAt (b : Bool) (n : Nat) : Word := (BitVec.ofBool b).setWidth 32 <<< n

/-- The value of STATUS (R37, R188). -/
def statusWord (s : State) : Word :=
  bitAt s.busy 0 ||| bitAt s.done 1 ||| s.errCode.bits.setWidth 32 <<< 8 ||| s.keyMask.setWidth 32 <<< 16
    ||| bitAt s.offValid 20 ||| bitAt s.lenValid 21 ||| bitAt s.busyWr 24

/-- STATUS as read while BUSY: bits 20 and 21 each a fresh draw (R189). -/
def statusWordBusy (s : State) (draw : Word) : Word :=
  (statusWord s &&& 0xFFCFFFFF) ||| (draw &&& 0x00300000)

/-- The level of the `irq` output (R62, R216). -/
def State.irq (s : State) : Bool := s.done && s.doneIe

/-- Write of STATUS (R183): bit 1 clears DONE, bit 24 clears BUSYWR, every other bit is ignored. -/
def State.writeStatus (s : State) (v : Word) : State :=
  { s with done := s.done && !v.getLsbD 1, busyWr := s.busyWr && !v.getLsbD 24 }

/-- Write of IRQEN (R184). -/
def State.writeIrqen (s : State) (v : Word) : State := { s with doneIe := v.getLsbD 0 }

/-- Write of KEYw (R185): `KEYw <- v; STATUS.KEYMASK[w] <- 1`. -/
def State.writeKey (s : State) (w : Fin 4) (v : Word) : State :=
  { s with key := s.key.set w v, keyMask := s.keyMask ||| (1#4 <<< w.val) }

/-- The condition of `keyCheck` (R121): all four key words written since reset. -/
def State.keyLoaded (s : State) : Bool := s.keyMask == 0xF#4

/-- OFFSET and CT_LEN both written since reset (R206). -/
def State.placed (s : State) : Bool := s.offValid && s.lenValid

/-- MSG_LEN exceeds the longest plaintext (R209, first line). -/
def State.msgLenTooBig (s : State) : Bool := decide (s.msgLen.toNat > bufCap s.params - 1)

/-- CT_LEN exceeds BUF_CAP (R209, second line). -/
def State.ctLenTooBig (s : State) : Bool := decide (s.ctLen.toNat > bufCap s.params)

/-- CAR_LEN exceeds CAR_CAP (R209, third line). -/
def State.carLenTooBig (s : State) : Bool := decide (s.carLen.toNat > carCap s.params)

/-- CT_LEN is no length of a ciphertext (R203). -/
def State.ctLenNotBlocks (s : State) : Bool := s.ctLen.toNat == 0 || s.ctLen.toNat % 16 != 0

/-- `placeCheck(c, S, o)` (R151): the code it raises, if any. -/
def placeCheck (c S o : Nat) : Option ErrCode :=
  if 8 * c > S then some .carrierTooSmall
  else if o > S - 8 * c then some .offsetOutOfRange
  else none

end Sys2Proof.Machine
end

