-- ==== Sys2Proof/Machine/Bus.lean ====
section
/-! DEFINITION. The slave interface: the address map (20_memory.md R70 to R77) and the host's accesses
(45_control.md R181 to R191). -/

namespace Sys2Proof.Machine

/-! ## The address map -/

/-- The first address of a buffer's window (R71). -/
def windowBase (b : Buffer) : Nat :=
  match b with
  | .msg => 0x00010000
  | .ct => 0x00020000
  | .car => 0x80000000

/-- The last address of REG is 0xFF (R71). -/
def regEnd : Nat := 0x100

/-- What an address names (R71). -/
inductive Target where
  /-- an offset in region REG -/
  | reg (off : Nat)
  /-- byte `i` of a buffer's window -/
  | window (b : Buffer) (i : Nat)
  /-- an address in no region -/
  | unmapped
deriving DecidableEq, Repr

/-- Address `a` lies in the window of buffer `b` (R71). -/
def inWindow (p : Params) (b : Buffer) (a : Nat) : Bool :=
  decide (windowBase b ≤ a) && decide (a - windowBase b < capacity p b)

/-- The region of an address (R71); the regions do not overlap. -/
def targetOf (p : Params) (a : Word) : Target :=
  let n := a.toNat
  if n < regEnd then .reg n
  else if inWindow p .msg n then .window .msg (n - windowBase .msg)
  else if inWindow p .ct n then .window .ct (n - windowBase .ct)
  else if inWindow p .car n then .window .car (n - windowBase .car)
  else .unmapped

/-- `hostCheck(A, n)` (R181): true for OKAY, false for bus error. -/
def hostCheck (p : Params) (a : Word) (n : AccessSize) : Bool :=
  match targetOf p a with
  | .unmapped => false
  | .reg _ => n == .word && a.toNat % 4 == 0
  | .window _ _ => n == .byte || a.toNat % 4 == 0

/-- The register at an offset of REG (R31, R37, R46 to R54); every other 4-aligned offset is reserved (R72). -/
def regAt (off : Nat) : Reg :=
  if off = 0x00 then .id
  else if off = 0x04 then .caps0
  else if off = 0x08 then .caps1
  else if off = 0x0C then .cmd
  else if off = 0x10 then .status
  else if off = 0x14 then .irqen
  else if off = 0x18 then .msgLen
  else if off = 0x1C then .ctLen
  else if off = 0x20 then .carLen
  else if off = 0x24 then .offset
  else if 0x30 ≤ off ∧ off ≤ 0x3C then .key (Fin.ofNat 4 ((off - 0x30) / 4))
  else if 0x40 ≤ off ∧ off ≤ 0x4C then .blkIn (Fin.ofNat 4 ((off - 0x40) / 4))
  else if 0x50 ≤ off ∧ off ≤ 0x5C then .blkOut (Fin.ofNat 4 ((off - 0x50) / 4))
  else .reserved

/-! ## Reads -/

/-- Read of a register (R188). -/
def readReg (s : State) (r : Reg) : Word :=
  match r with
  | .id => 0x48504E47
  | .caps0 => BitVec.ofNat 32 (nblk s.params)
  | .caps1 => BitVec.ofNat 32 (carCap s.params)
  | .cmd => s.cmd
  | .status => statusWord s
  | .irqen => bitAt s.doneIe 0
  | .msgLen => s.msgLen
  | .ctLen => s.ctLen
  | .carLen => s.carLen
  | .offset => s.offset
  | .key _ => 0
  | .blkIn w => s.blkIn.get w
  | .blkOut w => s.blkOut.get w
  | .reserved => 0

/-- Read of a register while BUSY (R189): any value for those a command may write, fresh bits 20 and 21 of STATUS. -/
def readRegBusy (s : State) (r : Reg) (draw : Word) : Word :=
  match r with
  | .msgLen => draw
  | .ctLen => draw
  | .offset => draw
  | .blkOut _ => draw
  | .status => statusWordBusy s draw
  | .id => readReg s .id
  | .caps0 => readReg s .caps0
  | .caps1 => readReg s .caps1
  | .cmd => readReg s .cmd
  | .irqen => readReg s .irqen
  | .carLen => readReg s .carLen
  | .key w => readReg s (.key w)
  | .blkIn w => readReg s (.blkIn w)
  | .reserved => readReg s .reserved

/-- Read of a window (R191, R74, R75): a byte zero-extended, or four bytes, byte `i` lowest. -/
def readWindow (s : State) (b : Buffer) (i : Nat) (n : AccessSize) : Word :=
  match n with
  | .byte => (s.readByte b i).setWidth 32
  | .word => wordOf (s.readByte b i) (s.readByte b (i + 1)) (s.readByte b (i + 2)) (s.readByte b (i + 3))

/-- Read of a window while BUSY (R189): a fresh draw in every byte lane of the access. DEDUCED (log 7): a byte read
fills lane 0 alone. -/
def readWindowBusy (n : AccessSize) (draw : Word) : Word :=
  match n with
  | .byte => (lane draw 0).setWidth 32
  | .word => draw

/-- The value of a read that passes `hostCheck` (R188, R189, R191). -/
def readValue (s : State) (a : Word) (n : AccessSize) : Word :=
  match targetOf s.params a with
  | .reg off => if s.busy then readRegBusy s (regAt off) (Config.anyWord s.tick) else readReg s (regAt off)
  | .window b i => if s.busy then readWindowBusy n (Config.anyWord s.tick) else readWindow s b i n
  | .unmapped => Config.anyWord s.tick

/-- A host read: its answer, and no change of the core's state (R80). Its draws are used up. A read answered with bus
error returns any value (R218). -/
def hostRead (s : State) (a : Word) (n : AccessSize) : State :=
  { s with
    answer := some (if hostCheck s.params a n then .readOkay (readValue s a n) else .readError (Config.anyWord s.tick))
    tick := s.tick + 1 }

/-! ## Writes -/

/-- Write of a register while IDLE (R107, R183 to R187). -/
def writeReg (s : State) (r : Reg) (v : Word) : State :=
  match r with
  | .cmd => s.start v
  | .status => s.writeStatus v
  | .irqen => s.writeIrqen v
  | .msgLen => { s with msgLen := v }
  | .ctLen => s.writeCtLen v
  | .carLen => { s with carLen := v }
  | .offset => s.writeOffset v
  | .key w => s.writeKey w v
  | .blkIn w => { s with blkIn := s.blkIn.set w v }
  | .id => s
  | .caps0 => s
  | .caps1 => s
  | .blkOut _ => s
  | .reserved => s

/-- The bytes a window write stores (R190): bits 7:0, or four lanes, lane 0 first. -/
def writeBytes (n : AccessSize) (v : Word) : List Byte :=
  match n with
  | .byte => [lane v 0]
  | .word => [lane v 0, lane v 1, lane v 2, lane v 3]

/-- The registers the host may write while BUSY (R182, R183, R184). -/
def writableBusy (r : Reg) : Bool := r == .status || r == .irqen

/-- A write that is dropped because the engine is BUSY (R182). -/
def State.dropWrite (s : State) : State := { s with busyWr := true }

/-- The effect of a write that passes `hostCheck` (R182 to R187, R190). -/
def writeEffect (s : State) (a : Word) (n : AccessSize) (v : Word) : State :=
  match targetOf s.params a with
  | .reg off => if s.busy && !writableBusy (regAt off) then s.dropWrite else writeReg s (regAt off) v
  | .window b i => if s.busy then s.dropWrite else s.memWrite b i (writeBytes n v)
  | .unmapped => s

/-- A host write (R181): its effect and OKAY, or bus error and no change of the core's state (R218). -/
def hostWrite (s : State) (a : Word) (n : AccessSize) (v : Word) : State :=
  if hostCheck s.params a n then { writeEffect s a n v with answer := some .writeOkay }
  else { s with answer := some .writeError }

/-- One host access, one step of the host (R79). -/
def hostAccess (s : State) (h : HostAccess) : State :=
  match h with
  | .read a n => hostRead s a n
  | .write a n v => hostWrite s a n v

end Sys2Proof.Machine
end

