-- ==== Sys2Proof/Machine/Cipher.lean ====
section
/-! DEFINITION. The block-cipher wrapper (40_cipher.md): ENC_BLOCK and DEC_BLOCK. -/

namespace Sys2Proof.Machine

/-- What ENC_BLOCK computes (R122), with the cipher behind the given ports. -/
def encBlockWith (P : Ports) (s : State) : Except ErrCode State :=
  if !s.keyLoaded then .error .invalidKeyLength
  else .ok (s.putBlkOut (P.encipher s.keyBytes s.blkinBytes))

/-- What DEC_BLOCK computes (R123), with the cipher behind the given ports. -/
def decBlockWith (P : Ports) (s : State) : Except ErrCode State :=
  if !s.keyLoaded then .error .invalidKeyLength
  else .ok (s.putBlkOut (P.decipher s.keyBytes s.blkinBytes))

/-- ENC_BLOCK (R122). -/
def execEncBlock (s : State) : Host.Outcome State Fault Refusal := finish s (encBlockWith Config.ports s)

/-- DEC_BLOCK (R123). -/
def execDecBlock (s : State) : Host.Outcome State Fault Refusal := finish s (decBlockWith Config.ports s)

end Sys2Proof.Machine
end

