-- ==== Sys2Proof/Machine/Control.lean ====
section
/-! DEFINITION. The no-operation command (45_control.md R180). -/

namespace Sys2Proof.Machine

/-- NOP (R180): no check, no write. -/
def execNop (s : State) : Host.Outcome State Fault Refusal := finish s (.ok s)

end Sys2Proof.Machine
end

