-- ==== Sys2Proof/Machine/Padding.lean ====
section
/-! DEFINITION. The padding codec (41_padding.md): PAD and UNPAD. -/

namespace Sys2Proof.Machine

/-- `padLen(m)` (R130). -/
def padLen (m : Nat) : Nat := 16 - m % 16

/-- `pad(s)` (R131): every padding byte has the padding length as its value. -/
def pad (s : List Byte) : List Byte :=
  s ++ List.replicate (padLen s.length) (BitVec.ofNat 8 (padLen s.length))

/-- `unpadValid(q)` (R132). -/
def unpadValid (q : List Byte) : Bool :=
  match q.getLast? with
  | none => false
  | some ind =>
    decide (1 ≤ ind.toNat) && decide (ind.toNat ≤ 16) && decide (ind.toNat ≤ q.length)
      && (q.drop (q.length - ind.toNat)).all (fun x => x == ind)

/-- `unpad(q)` (R132), used only where `unpadValid(q)` holds. -/
def unpad (q : List Byte) : List Byte :=
  match q.getLast? with
  | none => []
  | some ind => q.take (q.length - ind.toNat)

/-- What PAD computes (R133). -/
def padResult (s : State) : Except ErrCode State :=
  if s.msgLenTooBig then .error .lengthOutOfRange
  else .ok (s.putCiphertext (pad (s.memRead .msg 0 s.msgLen.toNat)))

/-- What UNPAD computes (R134). -/
def unpadResult (s : State) : Except ErrCode State :=
  if s.ctLenTooBig then .error .lengthOutOfRange
  else if !unpadValid (s.memRead .ct 0 s.ctLen.toNat) then .error .invalidPadding
  else .ok (s.putPlaintext (unpad (s.memRead .ct 0 s.ctLen.toNat)))

/-- PAD (R133). -/
def execPad (s : State) : Host.Outcome State Fault Refusal := finish s (padResult s)

/-- UNPAD (R134). -/
def execUnpad (s : State) : Host.Outcome State Fault Refusal := finish s (unpadResult s)

end Sys2Proof.Machine
end

