-- ==== Sys2Proof/Machine/Codec.lean ====
section
/-! DEFINITION. The message codec (42_codec.md): ENCRYPT and DECRYPT. -/

namespace Sys2Proof.Machine

/-- Block `k` of a sequence: its bytes `16*k .. 16*k + 15` (R18). -/
def blockAt (s : List Byte) (k : Nat) : Block := Vector.ofFn (fun i : Fin 16 => s.getD (16 * k + i.val) 0)

/-- `blocks16(s)` (R18), used only where 16 divides `|s|`. -/
def blocks16 (s : List Byte) : List Block := (List.range (s.length / 16)).map (blockAt s)

/-- `concat` (R18) of 16-byte blocks. -/
def concatBlocks (l : List Block) : List Byte := l.flatMap (fun b => b.toList)

/-- `ecbEnc(K, p)` (R140): each block on its own, joined in block order. -/
def ecbEnc (P : Ports) (K : Block) (p : List Byte) : List Byte :=
  concatBlocks ((blocks16 p).map (P.encipher K))

/-- `ecbDec(K, x)` (R141). -/
def ecbDec (P : Ports) (K : Block) (x : List Byte) : List Byte :=
  concatBlocks ((blocks16 x).map (P.decipher K))

/-- What ENCRYPT computes (R142), with the cipher behind the given ports. -/
def encryptWith (P : Ports) (s : State) : Except ErrCode State :=
  if !s.keyLoaded then .error .invalidKeyLength
  else if s.msgLenTooBig then .error .lengthOutOfRange
  else .ok (s.putCiphertext (ecbEnc P s.keyBytes (pad (s.memRead .msg 0 s.msgLen.toNat))))

/-- What DECRYPT computes (R143), with the cipher behind the given ports. -/
def decryptWith (P : Ports) (s : State) : Except ErrCode State :=
  if !s.keyLoaded then .error .invalidKeyLength
  else if s.ctLenTooBig then .error .lengthOutOfRange
  else if s.ctLenNotBlocks then .error .invalidCiphertextLength
  else
    let q := ecbDec P s.keyBytes (s.memRead .ct 0 s.ctLen.toNat)
    if !unpadValid q then .error .invalidPadding
    else .ok (s.putPlaintext (unpad q))

/-- ENCRYPT (R142). -/
def execEncrypt (s : State) : Host.Outcome State Fault Refusal := finish s (encryptWith Config.ports s)

/-- DECRYPT (R143). -/
def execDecrypt (s : State) : Host.Outcome State Fault Refusal := finish s (decryptWith Config.ports s)

end Sys2Proof.Machine
end

