-- ==== Sys2Proof/Machine/Embed.lean ====
section
/-! DEFINITION. The bit-insertion pipeline (43_embed.md): EMBED and HIDE. -/

namespace Sys2Proof.Machine

/-- One step of `embedBits` (R150): clear bit 0 of the carrier byte `v`, then OR in bit `j` of the payload byte. -/
def embedBit (v payload : Byte) (j : Nat) : Byte := (v &&& 0xFE) ||| ((payload >>> j) &&& 1)

/-- The carrier bytes `embedBits` writes (R150), from the carrier bytes `vs` it reads at the same places: place `t = 8*i + j`
takes bit `j` of payload byte `i`. No place is visited twice, so the order of the loop does not matter (R23). -/
def embedBytes (vs y : List Byte) : List Byte :=
  (List.range (8 * y.length)).map (fun t => embedBit (vs.getD t 0) (y.getD (t / 8) 0) (t % 8))

/-- `embedBits(o, y)` (R150). -/
def State.embedBits (s : State) (o : Nat) (y : List Byte) : State :=
  s.memWrite .car o (embedBytes (s.memRead .car o (8 * y.length)) y)

/-- `drawOffset(S, c)` for the room `B = S - 8*c` (R153): no request when `B = 0`. -/
def drawOffset (P : Ports) (n B : Nat) : Nat := if B = 0 then 0 else (P.rng n (B - 1)).val

/-- What EMBED computes (R152). -/
def embedResult (s : State) : Except ErrCode State :=
  if !s.placed then .error .missingOffsetOrLength
  else if s.ctLenTooBig || s.carLenTooBig then .error .lengthOutOfRange
  else
    match placeCheck s.ctLen.toNat s.carLen.toNat s.offset.toNat with
    | some code => .error code
    | none => .ok (s.embedBits s.offset.toNat (s.memRead .ct 0 s.ctLen.toNat))

/-- The ciphertext length of the message (R154): `c = 16 * (m div 16 + 1)`. -/
def paddedLen (m : Nat) : Nat := 16 * (m / 16 + 1)

/-- What HIDE computes (R154), with the cipher and the random source behind the given ports. -/
def hideWith (P : Ports) (s : State) : Except ErrCode State :=
  if !s.keyLoaded then .error .invalidKeyLength
  else if s.msgLenTooBig || s.carLenTooBig then .error .lengthOutOfRange
  else
    let c := paddedLen s.msgLen.toNat
    if 8 * c > s.carLen.toNat then .error .carrierTooSmall
    else
      let y := ecbEnc P s.keyBytes (pad (s.memRead .msg 0 s.msgLen.toNat))
      let o := drawOffset P s.tick (s.carLen.toNat - 8 * c)
      .ok (((s.putCiphertext y).writeOffset (BitVec.ofNat 32 o)).embedBits o y)

/-- EMBED (R152). -/
def execEmbed (s : State) : Host.Outcome State Fault Refusal := finish s (embedResult s)

/-- HIDE (R154). -/
def execHide (s : State) : Host.Outcome State Fault Refusal := finish s (hideWith Config.ports s)

end Sys2Proof.Machine
end

