-- ==== Sys2Proof/Machine/Extract.lean ====
section
/-! DEFINITION. The bit-extraction pipeline (44_extract.md): EXTRACT and REVEAL. -/

namespace Sys2Proof.Machine

/-- One payload byte of `extractBits` (R165) from the carrier bytes `vs`: bit `j` is bit 0 of place `8*i + j`. -/
def extractByte (vs : List Byte) (i : Nat) : Byte :=
  (List.range 8).foldl (fun b j => b ||| ((vs.getD (8 * i + j) 0 &&& 1) <<< j)) 0

/-- The payload bytes of `extractBits` (R165) from the carrier bytes read. -/
def extractBytes (vs : List Byte) (c : Nat) : List Byte := (List.range c).map (extractByte vs)

/-- `extractBits(o, c)` (R165). -/
def State.extractBits (s : State) (o c : Nat) : List Byte := extractBytes (s.memRead .car o (8 * c)) c

/-- What EXTRACT computes (R166). -/
def extractResult (s : State) : Except ErrCode State :=
  if !s.placed then .error .missingOffsetOrLength
  else if s.ctLenTooBig || s.carLenTooBig then .error .lengthOutOfRange
  else
    match placeCheck s.ctLen.toNat s.carLen.toNat s.offset.toNat with
    | some code => .error code
    | none => .ok (s.memWrite .ct 0 (s.extractBits s.offset.toNat s.ctLen.toNat))

/-- What REVEAL computes (R167), with the cipher behind the given ports. -/
def revealWith (P : Ports) (s : State) : Except ErrCode State :=
  if !s.keyLoaded then .error .invalidKeyLength
  else if !s.placed then .error .missingOffsetOrLength
  else if s.ctLenTooBig || s.carLenTooBig then .error .lengthOutOfRange
  else if s.ctLenNotBlocks then .error .invalidCiphertextLength
  else
    match placeCheck s.ctLen.toNat s.carLen.toNat s.offset.toNat with
    | some code => .error code
    | none =>
      let y := s.extractBits s.offset.toNat s.ctLen.toNat
      let q := ecbDec P s.keyBytes y
      if !unpadValid q then .error .invalidPadding
      else .ok ((s.memWrite .ct 0 y).putPlaintext (unpad q))

/-- EXTRACT (R166). -/
def execExtract (s : State) : Host.Outcome State Fault Refusal := finish s (extractResult s)

/-- REVEAL (R167). -/
def execReveal (s : State) : Host.Outcome State Fault Refusal := finish s (revealWith Config.ports s)

end Sys2Proof.Machine
end

