-- ==== Sys2Proof/Machine/Engine.lean ====
section
/-! DEFINITION. The engine's one step (30_encoding.md R109). -/

namespace Sys2Proof.Machine

/-- The engine's turn. While BUSY it takes the completion step: it decodes the word CMD holds and runs the command, or
completes with `IllegalCommand` (R101, R109, R208). An IDLE engine does nothing (R225). -/
def engineStep (s : State) : Host.Outcome State Fault Refusal :=
  match s.eng with
  | .idle => .next s
  | .busy =>
    match Sys2Proof.decode s.cmd with
    | .ok i => exec i s
    | .error _ => complete .illegalCommand s

/-- One event (R6, R83, R232): a host access, a turn of the engine, or a reset. -/
def stepEvent (e : Event) (s : State) : Host.Outcome State Fault Refusal :=
  match e with
  | .access h => .next (hostAccess s h)
  | .engine => engineStep s
  | .rst => .next s.resetStep

/-- The state in which a command word has just been accepted (R107) and the engine has the next turn. -/
def State.withCommand (s : State) (w : Word) : State :=
  { s.start w with events := .engine :: s.events }

end Sys2Proof.Machine
end

