-- ==== Sys2Proof/Machine/Step.lean ====
section
/-! DEFINITION. One step of the core: the first pending event happens; where none is pending, the engine has the turn
(00_scope.md R6, 20_memory.md R83, 30_encoding.md R108; log 1, log 2). -/

namespace Sys2Proof.Machine

/-- One step of the core. -/
def step (s : State) : Host.Outcome State Fault Refusal :=
  match s.events with
  | [] => engineStep s
  | e :: rest => stepEvent e { s with events := rest }

/-- `s` with the command word of the opcode table's row in CMD, started (R107), and the engine's completion step next
(log 1): the core fetches no instructions (R36), so a command comes to run by a write of CMD. -/
def State.withFetchWord (s : State) (nbits w : Nat) : State :=
  s.withCommand (Sys2Proof.commandWord nbits w)

end Sys2Proof.Machine
end

