-- ==== Sys2Proof/Safety.lean ====
section
/-! DEFINITION. The terms claims are stated in: the invariant every step keeps, which cells are WRITTEN, what a command
reads and leaves, and which accesses the bus refuses. -/

namespace Sys2Proof.Safety

open Sys2Proof.Machine

/-! ## The invariant -/

/-- The cells of a buffer are in canonical form and inside the buffer (R56 to R58, R92). -/
def BufferOk (s : State) (b : Buffer) : Prop := (s.buf b).wf ∧ (s.buf b).below (capacity s.params b)

/-- What holds in every state a run from reset reaches. -/
structure CoreInv (s : State) : Prop where
  /-- every buffer is well formed and in bounds (R92) -/
  buffers : ∀ b, BufferOk s b
  /-- the two codes the core never raises are never recorded (R202, R207) -/
  code : forbidden s.errCode = false
  /-- while a command runs, DONE and ERRCODE read 0 (R107, R189) -/
  running : s.eng = .busy → s.done = false ∧ s.errCode = .ok
  /-- an OFFSET never written holds its reset value (R42, R63) -/
  offset : s.offValid = false → s.offset = 0
  /-- a CT_LEN never written holds its reset value (R43, R63) -/
  ctLen : s.lenValid = false → s.ctLen = 0
  /-- a key word never written holds its reset value (R41, R63) -/
  key : ∀ w : Fin 4, s.keyMask.getLsbD w.val = false → s.key.get w = 0

/-! ## Buffers -/

/-- Cells `i .. i+n-1` are WRITTEN (R61). -/
abbrev Written (m : Memory) (i n : Nat) : Prop := ∀ t, t < n → (m.read (i + t)).isSome = true

/-- Two buffers agree, marks and bytes, at every index of `i .. i+n-1`. -/
abbrev SameInside (m m' : Memory) (i n : Nat) : Prop := ∀ t, t < n → m'.read (i + t) = m.read (i + t)

/-- Two buffers agree, marks and bytes, at every index outside `i .. i+n-1`. -/
def SameOutside (m m' : Memory) (i n : Nat) : Prop := ∀ a, a < i ∨ i + n ≤ a → m'.read a = m.read a

/-! ## Sequences, as functions from an index to a byte -/

/-- The 16 bytes of block `k` (R18). -/
def blockOf (cell : Nat → Byte) (k : Nat) : Block := Vector.ofFn (fun i : Fin 16 => cell (16 * k + i.val))

/-- Byte `a` of a sequence put block by block through `f` (R140, R141). -/
def blockwise (f : Block → Block) (cell : Nat → Byte) (a : Nat) : Byte :=
  (f (blockOf cell (a / 16)))[a % 16]'(Nat.mod_lt a (by decide))

/-- Byte `a` of the padded form of an `m`-byte sequence (R130, R131). -/
def paddedCell (cell : Nat → Byte) (m a : Nat) : Byte := if a < m then cell a else BitVec.ofNat 8 (16 - m % 16)

/-- `unpadValid` of a sequence of `c` bytes, with `n` the value of its last byte (R132). -/
abbrev PaddingValid (cell : Nat → Byte) (c n : Nat) : Prop :=
  1 ≤ c ∧ n = (cell (c - 1)).toNat ∧ 1 ≤ n ∧ n ≤ 16 ∧ n ≤ c ∧ ∀ t, t < n → cell (c - n + t) = cell (c - 1)

/-- The carrier byte `v` with bit `j` of the payload byte in its bit 0: clear, then OR (R150). -/
def insertBit (v payload : Byte) (j : Nat) : Byte := (v &&& 0xFE) ||| ((payload >>> j) &&& 1)

/-- `y` is the payload of `c` bytes that the carrier bytes from `o` on hold (R165). -/
abbrev Carries (carrier : Nat → Byte) (o c : Nat) (y : Nat → Byte) : Prop :=
  ∀ i, i < c → ∀ j, j < 8 → (y i).getLsbD j = (carrier (o + 8 * i + j)).getLsbD 0

/-! ## Commands -/

/-- `exec i s` completes with an error code and nothing but the completion fields is written (R111, R112, R214); `tick`
is the model's draw counter. -/
def FailsWith (i : Instr) (s : State) (code : ErrCode) : Prop :=
  exec i s = .next { s with eng := .idle, done := true, errCode := code, tick := s.tick + 1 }

/-- `CIPHER_INVERSE` (R11): decryption inverts encryption. -/
def CipherInverse (P : Ports) : Prop := ∀ K B : Block, P.decipher K (P.encipher K B) = B

/-- The engine has the next turn, and `rest` is pending after it. -/
def EngineTurn (s : State) (rest : List Event) : Prop := (s.events = [] ∧ rest = []) ∨ s.events = .engine :: rest

/-! ## Host accesses -/

/-- The state in which a host access comes next. -/
def withAccess (s : State) (h : HostAccess) : State := { s with events := .access h :: s.events }

/-- The address lies in one of the four regions (R71). -/
abbrev Mapped (p : Params) (a : Word) : Prop :=
  a.toNat ≤ 0xFF
    ∨ (0x10000 ≤ a.toNat ∧ a.toNat < 0x10000 + bufCap p)
    ∨ (0x20000 ≤ a.toNat ∧ a.toNat < 0x20000 + bufCap p)
    ∨ (0x80000000 ≤ a.toNat ∧ a.toNat < 0x80000000 + carCap p)

/-- The accesses answered with bus error (R181, R218): an unmapped address, a REG access that is no aligned word, a
misaligned window word. -/
abbrev BusError (p : Params) (a : Word) (n : AccessSize) : Prop :=
  ¬ Mapped p a ∨ (a.toNat ≤ 0xFF ∧ (n = .byte ∨ a.toNat % 4 ≠ 0)) ∨ (0xFF < a.toNat ∧ n = .word ∧ a.toNat % 4 ≠ 0)

/-- Address of byte `i` of a buffer's window (R71). -/
def windowAddr (b : Buffer) (i : Nat) : Word :=
  match b with
  | .msg => BitVec.ofNat 32 (0x10000 + i)
  | .ct => BitVec.ofNat 32 (0x20000 + i)
  | .car => BitVec.ofNat 32 (0x80000000 + i)

end Sys2Proof.Safety
end

