-- ==== Sys2Proof/Certificates/Slice0/Obligations.lean ====
section
/-! DEFINITION. The statements for the provers, from the numbered rules of spec/. In every statement the field `tick` of
State is the model's draw counter (log 3), `events` its pending inputs (log 1) and `answer` the last bus answer (log 8). -/

open Sys2Proof Sys2Proof.Machine Sys2Proof.Safety

/-! ## Encoding and the step -/

/-- Each of these words of the opcode table (R103) decodes to the command it stands for, and two reserved words (R104) to none. -/
def Obligations.DecodeReadsTableWords : Prop :=
  decode 0x00000000 = .ok .nop ∧ decode 0x00000002 = .ok .decBlock ∧ decode 0x00000004 = .ok .unpad
    ∧ decode 0x00000006 = .ok .decrypt ∧ decode 0x00000008 = .ok .extract ∧ decode 0x0000000A = .ok .reveal
    ∧ decode 0x0000000B = .error .reservedOp ∧ decode 0x00000011 = .error .reservedBits

/-- A word decodes to a command exactly when it is that command's word (R103, R104): every command's word decodes to it,
and no other word has a meaning. -/
def Obligations.DecodeExactlyTheEncodedWords : Prop :=
  ∀ (w : Word) (i : Instr), decode w = .ok i ↔ w = encode i

/-- R101: the decoder reads OP where RSV is 0 and OP is at most 0xA and calls every other word ILLEGAL; it runs at the
completion step, on the word CMD holds, and an ILLEGAL word completes with IllegalCommand. -/
def Obligations.DecodeFollowsFields : Prop :=
  (∀ w : Word, w.extractLsb' 4 28 = 0 ∧ (w.extractLsb' 0 4).toNat ≤ 0xA →
      ∃ i, decode w = .ok i ∧ (encode i).toNat = (w.extractLsb' 0 4).toNat)
  ∧ (∀ w : Word, ¬ (w.extractLsb' 4 28 = 0 ∧ (w.extractLsb' 0 4).toNat ≤ 0xA) → ∃ e, decode w = .error e)
  ∧ (∀ (s : State) (rest : List Event), s.eng = .busy → EngineTurn s rest →
      (∀ i, decode s.cmd = .ok i → step s = exec i { s with events := rest })
      ∧ (∀ e, decode s.cmd = .error e →
          step s = .next { s with events := rest, eng := .idle, done := true, errCode := .illegalCommand, tick := s.tick + 1 }))

/-- A step runs the decoded command: at the engine's turn while BUSY, the step is exec of the command CMD holds, the pending
engine event taken off. -/
def Obligations.StepRunsTheDecodedCommand : Prop :=
  ∀ (s : State) (rest : List Event) (i : Instr), s.eng = .busy → EngineTurn s rest → decode s.cmd = .ok i → i.wf = true →
    step s = exec i { s with events := rest }

/-- R208: an ILLEGAL word completes with IllegalCommand before any other condition is looked at, and writes nothing but
the completion fields. -/
def Obligations.IllegalCommandWritesOnlyCompletionFields : Prop :=
  ∀ (s : State) (rest : List Event), s.eng = .busy → EngineTurn s rest →
    (s.cmd.extractLsb' 4 28 ≠ 0 ∨ (s.cmd.extractLsb' 0 4).toNat > 0xA) →
    step s = .next { s with events := rest, eng := .idle, done := true, errCode := .illegalCommand, tick := s.tick + 1 }

/-- An IDLE engine does nothing (R225): its turn leaves the core as it is. That it has turns while IDLE is the model's (DESIGN
CHOICE, log 2). -/
def Obligations.IdleEngineDoesNothing : Prop :=
  ∀ (s : State) (rest : List Event), s.eng = .idle → EngineTurn s rest → step s = .next { s with events := rest }

/-- There is no trap (R213): from every state a step answers a next state; it never faults and is never refused. -/
def Obligations.EveryStepAnswersNext : Prop := ∀ s : State, ∃ t, step s = .next t

/-- A command that was started completes after at most as many steps as events are pending, unless reset comes first
(R108). The bound rests on the model's list of pending events (DESIGN CHOICE, log 2). -/
def Obligations.StartedCommandCompletes : Prop :=
  ∀ s : State, s.eng = .busy →
    ∃ k u t, k ≤ s.events.length ∧ Host.Core.run Sys2Proof.core k s = .next u ∧ u.eng = .busy ∧ u.cmd = s.cmd
      ∧ step u = .next t ∧ t.eng = .idle ∧ (t.done = true ∨ u.events.head? = some .rst)

/-- The invariant holds after reset. -/
def Obligations.ResetHasInvariant : Prop := CoreInv State.reset

/-- Every step keeps the invariant: buffers canonical and in bounds, no forbidden code recorded, DONE and ERRCODE 0 while
BUSY, and a register whose flag says 'not written since reset' at its reset value. -/
def Obligations.EveryStepKeepsInvariant : Prop := ∀ s t : State, CoreInv s → step s = .next t → CoreInv t

/-! ## Completion -/

/-- R202, R207, R211: codes 2 and 7 keep their numbers, and no step writes them or a reserved code. -/
def Obligations.ForbiddenAndReservedCodesNeverWritten : Prop :=
  ErrCode.invalidBlockSize.bits = 0x2 ∧ ErrCode.ioError.bits = 0x7
  ∧ ∀ s t : State, step s = .next t →
      t.errCode = s.errCode ∨ (t.errCode.bits ≠ 0x2 ∧ t.errCode.bits ≠ 0x7 ∧ t.errCode.bits.toNat ≤ 0xA)

/-- Every completion step, whatever its code, leaves ENG IDLE (STATUS.BUSY reads 0), DONE set, and CMD as it was (R112). -/
def Obligations.CompletionLeavesIdleDoneAndCmd : Prop :=
  ∀ (s t : State) (rest : List Event), s.eng = .busy → EngineTurn s rest → step s = .next t →
    t.eng = .idle ∧ (statusWord t).getLsbD 0 = false ∧ t.done = true ∧ (statusWord t).getLsbD 1 = true ∧ t.cmd = s.cmd

/-- R214: a completion with a nonzero code has changed nothing but the completion fields. -/
def Obligations.ErrorsArePrecise : Prop :=
  ∀ (s t : State) (rest : List Event), s.eng = .busy → EngineTurn s rest → step s = .next t → t.errCode ≠ .ok →
    t = { s with events := rest, eng := .idle, done := true, errCode := t.errCode, tick := s.tick + 1 }

/-- What no command writes (R34, R41, R44, R49, R50, R51, R53): CAR_LEN, CMD, KEYMASK, BUSYWR, DONE_IE, the key and BLK_IN. -/
def Obligations.EngineNeverWritesHostState : Prop :=
  ∀ (i : Instr) (s t : State), exec i s = .next t →
    t.carLen = s.carLen ∧ t.cmd = s.cmd ∧ t.keyMask = s.keyMask ∧ t.busyWr = s.busyWr ∧ t.doneIe = s.doneIe
      ∧ t.key = s.key ∧ t.blkIn = s.blkIn ∧ t.params = s.params ∧ t.events = s.events ∧ t.answer = s.answer

/-- Which commands may write each result (R31, R42, R43, R54, R56, R57, R58). -/
def Obligations.WritersOfEachResult : Prop :=
  ∀ (i : Instr) (s t : State), exec i s = .next t →
    (t.msgLen ≠ s.msgLen → i = .unpad ∨ i = .decrypt ∨ i = .reveal)
    ∧ (t.ctLen ≠ s.ctLen → i = .pad ∨ i = .encrypt ∨ i = .hide)
    ∧ (t.lenValid ≠ s.lenValid → i = .pad ∨ i = .encrypt ∨ i = .hide)
    ∧ (t.offset ≠ s.offset → i = .hide)
    ∧ (t.offValid ≠ s.offValid → i = .hide)
    ∧ (t.blkOut ≠ s.blkOut → i = .encBlock ∨ i = .decBlock)
    ∧ ((∃ a, t.msg.read a ≠ s.msg.read a) → i = .unpad ∨ i = .decrypt ∨ i = .reveal)
    ∧ ((∃ a, t.ct.read a ≠ s.ct.read a) → i = .pad ∨ i = .encrypt ∨ i = .hide ∨ i = .extract ∨ i = .reveal)
    ∧ ((∃ a, t.car.read a ≠ s.car.read a) → i = .embed ∨ i = .hide)

/-- No command writes `MSG[BUF_CAP - 1]` (R56). -/
def Obligations.LastMessageCellIsNeverWritten : Prop :=
  ∀ (i : Instr) (s t : State), exec i s = .next t → t.msg.read (bufCap s.params - 1) = s.msg.read (bufCap s.params - 1)

/-! ## The commands -/

/-- R180: NOP completes in every state and writes the completion fields alone. -/
def Obligations.NopCompletes : Prop :=
  ∀ s : State, exec .nop s = .next { s with eng := .idle, done := true, errCode := .ok, tick := s.tick + 1 }

/-- R52, R55: byte `4*w + b` of the key and of the input block is lane `b` of word `w`, and writing 16 bytes to four registers
puts byte `4*w + b` in lane `b` of word `w`. -/
def Obligations.KeyAndBlockByteOrder : Prop :=
  (∀ (s : State) (w b : Fin 4), s.keyBytes[4 * w.val + b.val]'(by omega) = (s.key.get w).extractLsb' (8 * b.val) 8)
  ∧ (∀ (s : State) (w b : Fin 4), s.blkinBytes[4 * w.val + b.val]'(by omega) = (s.blkIn.get w).extractLsb' (8 * b.val) 8)
  ∧ (∀ (s : State) (y : Block) (w b : Fin 4),
      ((s.putBlkOut y).blkOut.get w).extractLsb' (8 * b.val) 8 = y[4 * w.val + b.val]'(by omega))

/-- R122: ENC_BLOCK without a loaded key fails; with one it completes, BLK_OUT holds `E(K, BLK_IN)`, and nothing else changes. -/
def Obligations.EncBlockResult : Prop :=
  ∀ s : State,
    if s.keyMask ≠ 0xF#4 then FailsWith .encBlock s .invalidKeyLength
    else ∃ t, exec .encBlock s = .next t
      ∧ t = { s with blkOut := t.blkOut, eng := .idle, done := true, errCode := .ok, tick := s.tick + 1 }
      ∧ t.blkOut.bytes = Config.encipher s.key.bytes s.blkIn.bytes

/-- R123: DEC_BLOCK without a loaded key fails; with one it completes, BLK_OUT holds `D(K, BLK_IN)`, and nothing else changes. -/
def Obligations.DecBlockResult : Prop :=
  ∀ s : State,
    if s.keyMask ≠ 0xF#4 then FailsWith .decBlock s .invalidKeyLength
    else ∃ t, exec .decBlock s = .next t
      ∧ t = { s with blkOut := t.blkOut, eng := .idle, done := true, errCode := .ok, tick := s.tick + 1 }
      ∧ t.blkOut.bytes = Config.decipher s.key.bytes s.blkIn.bytes

/-- R133: PAD fails when MSG_LEN exceeds BUF_CAP - 1; else CT holds the message and its padding, CT_LEN and LEN_VALID are
written, every other cell and register stays. -/
def Obligations.PadResult : Prop :=
  ∀ s : State,
    let m := s.msgLen.toNat
    let c := 16 * (m / 16 + 1)
    if m > bufCap s.params - 1 then FailsWith .pad s .lengthOutOfRange
    else ∃ t, exec .pad s = .next t
      ∧ t = { s with ct := t.ct, ctLen := t.ctLen, lenValid := true, eng := .idle, done := true, errCode := .ok, tick := s.tick + 1 }
      ∧ t.ctLen.toNat = c
      ∧ (∀ a, a < c → t.ct.read a = some (paddedCell (s.readByte .msg) m a))
      ∧ SameOutside s.ct t.ct 0 c

/-- R134: UNPAD fails when CT_LEN exceeds BUF_CAP, then when the padding is not valid; else MSG holds CT without its padding,
MSG_LEN is written, every other cell and register stays. -/
def Obligations.UnpadResult : Prop :=
  ∀ s : State,
    let c := s.ctLen.toNat
    let n := (s.readByte .ct (c - 1)).toNat
    if c > bufCap s.params then FailsWith .unpad s .lengthOutOfRange
    else if ¬ PaddingValid (s.readByte .ct) c n then FailsWith .unpad s .invalidPadding
    else ∃ t, exec .unpad s = .next t
      ∧ t = { s with msg := t.msg, msgLen := t.msgLen, eng := .idle, done := true, errCode := .ok, tick := s.tick + 1 }
      ∧ t.msgLen.toNat = c - n
      ∧ (∀ a, a < c - n → t.msg.read a = some (s.readByte .ct a))
      ∧ SameOutside s.msg t.msg 0 (c - n)

/-- R142: ENCRYPT checks the key, then MSG_LEN; else CT holds the padded message enciphered block by block, CT_LEN and LEN_VALID
are written, every other cell and register stays. -/
def Obligations.EncryptResult : Prop :=
  ∀ s : State,
    let m := s.msgLen.toNat
    let c := 16 * (m / 16 + 1)
    if s.keyMask ≠ 0xF#4 then FailsWith .encrypt s .invalidKeyLength
    else if m > bufCap s.params - 1 then FailsWith .encrypt s .lengthOutOfRange
    else ∃ t, exec .encrypt s = .next t
      ∧ t = { s with ct := t.ct, ctLen := t.ctLen, lenValid := true, eng := .idle, done := true, errCode := .ok, tick := s.tick + 1 }
      ∧ t.ctLen.toNat = c
      ∧ (∀ a, a < c → t.ct.read a = some (blockwise (Config.encipher s.key.bytes) (paddedCell (s.readByte .msg) m) a))
      ∧ SameOutside s.ct t.ct 0 c

/-- R143: DECRYPT checks the key, then CT_LEN against BUF_CAP, then that it is a positive multiple of 16, then the padding of the
deciphered blocks; else MSG holds the plaintext, MSG_LEN is written, every other cell and register stays. -/
def Obligations.DecryptResult : Prop :=
  ∀ s : State,
    let c := s.ctLen.toNat
    let q := blockwise (Config.decipher s.key.bytes) (s.readByte .ct)
    let n := (q (c - 1)).toNat
    if s.keyMask ≠ 0xF#4 then FailsWith .decrypt s .invalidKeyLength
    else if c > bufCap s.params then FailsWith .decrypt s .lengthOutOfRange
    else if c = 0 ∨ c % 16 ≠ 0 then FailsWith .decrypt s .invalidCiphertextLength
    else if ¬ PaddingValid q c n then FailsWith .decrypt s .invalidPadding
    else ∃ t, exec .decrypt s = .next t
      ∧ t = { s with msg := t.msg, msgLen := t.msgLen, eng := .idle, done := true, errCode := .ok, tick := s.tick + 1 }
      ∧ t.msgLen.toNat = c - n
      ∧ (∀ a, a < c - n → t.msg.read a = some (q a))
      ∧ SameOutside s.msg t.msg 0 (c - n)

/-- R152: EMBED checks the flags, the lengths and the placement, in this order; else bit 0 of each used carrier byte is the
payload bit, the other bits stay, and nothing else changes. -/
def Obligations.EmbedResult : Prop :=
  ∀ s : State,
    let c := s.ctLen.toNat
    let S := s.carLen.toNat
    let o := s.offset.toNat
    if s.offValid = false ∨ s.lenValid = false then FailsWith .embed s .missingOffsetOrLength
    else if c > bufCap s.params ∨ S > carCap s.params then FailsWith .embed s .lengthOutOfRange
    else if 8 * c > S then FailsWith .embed s .carrierTooSmall
    else if o > S - 8 * c then FailsWith .embed s .offsetOutOfRange
    else ∃ t, exec .embed s = .next t
      ∧ t = { s with car := t.car, eng := .idle, done := true, errCode := .ok, tick := s.tick + 1 }
      ∧ (∀ i j, i < c → j < 8 →
          t.car.read (o + 8 * i + j) = some (insertBit (s.readByte .car (o + 8 * i + j)) (s.readByte .ct i) j))
      ∧ SameOutside s.car t.car o (8 * c)

/-- R166: EXTRACT checks the flags, the lengths and the placement, in this order; else CT holds the bytes the carrier's bits 0
spell, bit 0 first, and nothing else changes. -/
def Obligations.ExtractResult : Prop :=
  ∀ s : State,
    let c := s.ctLen.toNat
    let S := s.carLen.toNat
    let o := s.offset.toNat
    if s.offValid = false ∨ s.lenValid = false then FailsWith .extract s .missingOffsetOrLength
    else if c > bufCap s.params ∨ S > carCap s.params then FailsWith .extract s .lengthOutOfRange
    else if 8 * c > S then FailsWith .extract s .carrierTooSmall
    else if o > S - 8 * c then FailsWith .extract s .offsetOutOfRange
    else ∃ t y, exec .extract s = .next t
      ∧ t = { s with ct := t.ct, eng := .idle, done := true, errCode := .ok, tick := s.tick + 1 }
      ∧ Carries (s.readByte .car) o c y
      ∧ (∀ i, i < c → t.ct.read i = some (y i))
      ∧ SameOutside s.ct t.ct 0 c

/-- R154: HIDE checks the key, the lengths and the carrier's size, in this order; else CT holds the enciphered message, OFFSET the
drawn offset (0 without a draw when the ciphertext fills the carrier), the carrier's bits 0 from there on the ciphertext, and
nothing else changes. `Config.rng` is the RNG port's answer, a free value (log 4). -/
def Obligations.HideResult : Prop :=
  ∀ s : State,
    let m := s.msgLen.toNat
    let S := s.carLen.toNat
    let c := 16 * (m / 16 + 1)
    let y := blockwise (Config.encipher s.key.bytes) (paddedCell (s.readByte .msg) m)
    if s.keyMask ≠ 0xF#4 then FailsWith .hide s .invalidKeyLength
    else if m > bufCap s.params - 1 ∨ S > carCap s.params then FailsWith .hide s .lengthOutOfRange
    else if 8 * c > S then FailsWith .hide s .carrierTooSmall
    else ∃ t, exec .hide s = .next t
      ∧ t = { s with ct := t.ct, ctLen := t.ctLen, lenValid := true, offset := t.offset, offValid := true, car := t.car, eng := .idle, done := true, errCode := .ok, tick := s.tick + 1 }
      ∧ t.ctLen.toNat = c
      ∧ (∀ a, a < c → t.ct.read a = some (y a))
      ∧ SameOutside s.ct t.ct 0 c
      ∧ t.offset.toNat = (if S - 8 * c = 0 then 0 else (Config.rng s.tick (S - 8 * c - 1)).val)
      ∧ t.offset.toNat + 8 * c ≤ S
      ∧ (∀ i j, i < c → j < 8 →
          t.car.read (t.offset.toNat + 8 * i + j) = some (insertBit (s.readByte .car (t.offset.toNat + 8 * i + j)) (y i) j))
      ∧ SameOutside s.car t.car t.offset.toNat (8 * c)

/-- R167: REVEAL checks the key, the flags, the lengths, the ciphertext length, the placement and the padding, in this order; else
CT holds the extracted ciphertext `y`, MSG its plaintext, MSG_LEN its length, and nothing else changes. -/
def Obligations.RevealResult : Prop :=
  ∀ (s : State) (y : Nat → Byte), Carries (s.readByte .car) s.offset.toNat s.ctLen.toNat y →
    let c := s.ctLen.toNat
    let S := s.carLen.toNat
    let o := s.offset.toNat
    let q := blockwise (Config.decipher s.key.bytes) y
    let n := (q (c - 1)).toNat
    if s.keyMask ≠ 0xF#4 then FailsWith .reveal s .invalidKeyLength
    else if s.offValid = false ∨ s.lenValid = false then FailsWith .reveal s .missingOffsetOrLength
    else if c > bufCap s.params ∨ S > carCap s.params then FailsWith .reveal s .lengthOutOfRange
    else if c = 0 ∨ c % 16 ≠ 0 then FailsWith .reveal s .invalidCiphertextLength
    else if 8 * c > S then FailsWith .reveal s .carrierTooSmall
    else if o > S - 8 * c then FailsWith .reveal s .offsetOutOfRange
    else if ¬ PaddingValid q c n then FailsWith .reveal s .invalidPadding
    else ∃ t, exec .reveal s = .next t
      ∧ t = { s with ct := t.ct, msg := t.msg, msgLen := t.msgLen, eng := .idle, done := true, errCode := .ok, tick := s.tick + 1 }
      ∧ (∀ i, i < c → t.ct.read i = some (y i))
      ∧ SameOutside s.ct t.ct 0 c
      ∧ t.msgLen.toNat = c - n
      ∧ (∀ a, a < c - n → t.msg.read a = some (q a))
      ∧ SameOutside s.msg t.msg 0 (c - n)

/-- Exactly the six commands that need the key fail for want of it, whatever else is wrong (R201). -/
def Obligations.InvalidKeyLengthExactlyWithoutKey : Prop :=
  ∀ (i : Instr) (s t : State), exec i s = .next t →
    (t.errCode = .invalidKeyLength ↔
      s.keyMask ≠ 0xF#4 ∧ (i = .encBlock ∨ i = .decBlock ∨ i = .encrypt ∨ i = .decrypt ∨ i = .hide ∨ i = .reveal))

/-! ## Properties of the functions -/

/-- R135: padding gives whole blocks, at least one byte more, valid for un-padding, and un-padding restores the sequence; so PAD
followed by UNPAD restores MSG_LEN and the message. -/
def Obligations.UnpadRestoresPadded : Prop :=
  (∀ q : List Byte, (pad q).length % 16 = 0 ∧ q.length + 1 ≤ (pad q).length ∧ unpadValid (pad q) = true ∧ unpad (pad q) = q)
  ∧ (∀ s : State, s.msgLen.toNat ≤ bufCap s.params - 1 → Written s.msg 0 s.msgLen.toNat →
      ∃ t u, exec .pad s = .next t ∧ t.errCode = .ok ∧ exec .unpad t = .next u ∧ u.errCode = .ok
        ∧ u.msgLen = s.msgLen ∧ SameInside s.msg u.msg 0 s.msgLen.toNat)

/-- R140, R141: a block is enciphered and deciphered by the cipher, a sequence of blocks block by block and joined in order, and
lengths are kept. -/
def Obligations.BlocksAreIndependent : Prop :=
  (∀ (P : Ports) (K B : Block), ecbEnc P K B.toList = (P.encipher K B).toList ∧ ecbDec P K B.toList = (P.decipher K B).toList)
  ∧ ∀ (P : Ports) (K : Block) (p q : List Byte), p.length % 16 = 0 → q.length % 16 = 0 →
    ecbEnc P K (p ++ q) = ecbEnc P K p ++ ecbEnc P K q ∧ (ecbEnc P K p).length = p.length
      ∧ ecbDec P K (p ++ q) = ecbDec P K p ++ ecbDec P K q ∧ (ecbDec P K p).length = p.length

/-- R125: where decryption inverts encryption, encryption inverts decryption, because the blocks are finitely many. -/
def Obligations.CipherInverseBothWays : Prop :=
  ∀ P : Ports, CipherInverse P → ∀ K B : Block, P.encipher K (P.decipher K B) = B

/-- R144: for every cipher whose decryption inverts its encryption, ENCRYPT and then DECRYPT, with the key, CT and CT_LEN left alone
between them, both complete and restore MSG_LEN and the message. The first clause says that exec runs these rules at the
configured ports. -/
def Obligations.EncryptThenDecryptRestoresMessage : Prop :=
  (∀ s : State, exec .encrypt s = finish s (encryptWith Config.ports s) ∧ exec .decrypt s = finish s (decryptWith Config.ports s))
  ∧ ∀ P : Ports, CipherInverse P → ∀ s : State, s.keyMask = 0xF#4 → s.msgLen.toNat ≤ bufCap s.params - 1 →
    Written s.msg 0 s.msgLen.toNat →
    ∃ t, finish s (encryptWith P s) = .next t ∧ t.errCode = .ok
      ∧ ∀ u : State, u.key = t.key → u.keyMask = t.keyMask → u.params = t.params → u.ctLen = t.ctLen →
          SameInside t.ct u.ct 0 t.ctLen.toNat →
          ∃ v, finish u (decryptWith P u) = .next v ∧ v.errCode = .ok ∧ v.msgLen = s.msgLen
            ∧ SameInside s.msg v.msg 0 s.msgLen.toNat

/-- R168: what EMBED or HIDE wrote at an offset, extraction reads back, as long as no write touched those carrier bytes. -/
def Obligations.ExtractionInvertsInsertion : Prop :=
  ∀ (i : Instr) (s t u : State), i = .embed ∨ i = .hide → exec i s = .next t → t.errCode = .ok →
    SameInside t.car u.car t.offset.toNat (8 * t.ctLen.toNat) →
    let y := State.extractBits u t.offset.toNat t.ctLen.toNat
    y.length = t.ctLen.toNat
      ∧ (i = .embed → ∀ a, a < t.ctLen.toNat → y[a]? = some (s.readByte .ct a))
      ∧ (i = .hide → ∀ a, a < t.ctLen.toNat → y[a]? = t.ct.read a)

/-- R169: for every cipher whose decryption inverts its encryption, HIDE and then REVEAL, with the key, CT_LEN, OFFSET, CAR_LEN and the
used carrier bytes left alone between them, restores MSG_LEN and the message. The first clause says that exec runs these rules at
the configured ports. -/
def Obligations.HideThenRevealRestoresMessage : Prop :=
  (∀ s : State, exec .hide s = finish s (hideWith Config.ports s) ∧ exec .reveal s = finish s (revealWith Config.ports s))
  ∧ ∀ P : Ports, CipherInverse P → ∀ s t : State, Written s.msg 0 s.msgLen.toNat →
    finish s (hideWith P s) = .next t → t.errCode = .ok →
    ∀ u : State, u.key = t.key → u.keyMask = t.keyMask → u.params = t.params → u.offValid = t.offValid → u.lenValid = t.lenValid →
      u.ctLen = t.ctLen → u.offset = t.offset → u.carLen = t.carLen →
      SameInside t.car u.car t.offset.toNat (8 * t.ctLen.toNat) →
      ∃ v, finish u (revealWith P u) = .next v ∧ v.errCode = .ok ∧ v.msgLen = s.msgLen
        ∧ SameInside s.msg v.msg 0 s.msgLen.toNat

/-- HIDE is ENCRYPT, a host write of OFFSET with the drawn offset, and EMBED: the same CT, CT_LEN, OFFSET, flags and CAR (R154, corner
cases), where the used carrier bytes are WRITTEN. -/
def Obligations.HideIsEncryptThenEmbed : Prop :=
  ∀ s t : State, exec .hide s = .next t → t.errCode = .ok → Written s.car t.offset.toNat (8 * t.ctLen.toNat) →
    ∃ e m, exec .encrypt s = .next e ∧ e.errCode = .ok ∧ exec .embed (writeReg e .offset t.offset) = .next m ∧ m.errCode = .ok
      ∧ m.ct = t.ct ∧ m.ctLen = t.ctLen ∧ m.lenValid = t.lenValid ∧ m.offset = t.offset ∧ m.offValid = t.offValid ∧ m.car = t.car

/-- Embedding the same WRITTEN ciphertext twice at one offset leaves the carrier as after the first time (R152, corner cases). -/
def Obligations.EmbedIsIdempotent : Prop :=
  ∀ s t : State, exec .embed s = .next t → t.errCode = .ok → Written s.ct 0 s.ctLen.toNat →
    ∃ u, exec .embed t = .next u ∧ u.errCode = .ok ∧ ∀ a, u.car.read a = t.car.read a

/-- R155: after EMBED or HIDE with offset `o` and ciphertext `y` of `c` bytes, every used carrier byte keeps bits 7:1 and has the
payload bit in bit 0, and every other carrier byte is unchanged. -/
def Obligations.OnlyBitZeroOfTheCarrierChanges : Prop :=
  ∀ (i : Instr) (s t : State) (y : Nat → Byte), i = .embed ∨ i = .hide → exec i s = .next t → t.errCode = .ok →
    (i = .embed → ∀ a, a < t.ctLen.toNat → y a = s.readByte .ct a) →
    (i = .hide → ∀ a, a < t.ctLen.toNat → t.ct.read a = some (y a)) →
    let o := t.offset.toNat
    let c := t.ctLen.toNat
    (∀ a, o ≤ a → a < o + 8 * c → ∃ v, t.car.read a = some v
        ∧ (∀ b, 1 ≤ b → b < 8 → v.getLsbD b = (s.readByte .car a).getLsbD b)
        ∧ v.getLsbD 0 = (y ((a - o) / 8)).getLsbD ((a - o) % 8))
    ∧ SameOutside s.car t.car o (8 * c)

/-- R145: ENCRYPT depends on the key, MSG_LEN and the WRITTEN message alone: two states that agree on them (and on the
configuration) get the same code, CT_LEN and ciphertext. -/
def Obligations.EncryptIsDeterministic : Prop :=
  ∀ s u t : State, u.key = s.key → u.keyMask = s.keyMask → u.msgLen = s.msgLen → u.params = s.params →
    Written s.msg 0 s.msgLen.toNat → SameInside s.msg u.msg 0 s.msgLen.toNat → exec .encrypt s = .next t →
    ∃ v, exec .encrypt u = .next v ∧ v.errCode = t.errCode
      ∧ (t.errCode = .ok → v.ctLen = t.ctLen ∧ SameInside t.ct v.ct 0 t.ctLen.toNat)

/-! ## Host accesses -/

/-- R218: an access answers bus error exactly for an unmapped address, a REG access that is no aligned word and a misaligned window
word; it then changes no state at all, and a read returns any value. -/
def Obligations.BusErrorExactlyWhenAndChangesNothing : Prop :=
  ∀ (s : State) (a : Word) (n : AccessSize) (v : Word),
    if BusError s.params a n then
      step (withAccess s (.write a n v)) = .next { s with answer := some .writeError }
      ∧ ∃ d, step (withAccess s (.read a n)) = .next { s with answer := some (.readError d), tick := s.tick + 1 }
    else
      (∃ t, step (withAccess s (.write a n v)) = .next t ∧ t.answer = some .writeOkay)
      ∧ ∃ d, step (withAccess s (.read a n)) = .next { s with answer := some (.readOkay d), tick := s.tick + 1 }

/-- R182: a write that passes the bus check while BUSY, to any address but STATUS and IRQEN, is dropped: BUSYWR is set, the answer
is OKAY, nothing else changes. -/
def Obligations.WriteWhileBusyIsDropped : Prop :=
  ∀ (s : State) (a : Word) (n : AccessSize) (v : Word), s.eng = .busy → ¬ BusError s.params a n → a ≠ 0x10 → a ≠ 0x14 →
    step (withAccess s (.write a n v)) = .next { s with busyWr := true, answer := some .writeOkay }

/-- R183: a write of STATUS, BUSY or IDLE, clears DONE with bit 1 and BUSYWR with bit 24 and does nothing else. -/
def Obligations.StatusWriteOneToClear : Prop :=
  ∀ (s : State) (v : Word), step (withAccess s (.write 0x10 .word v)) = .next
    { s with done := (if v.getLsbD 1 then false else s.done), busyWr := (if v.getLsbD 24 then false else s.busyWr), answer := some .writeOkay }

/-- R184: a write of IRQEN, BUSY or IDLE, writes DONE_IE with bit 0 and does nothing else; it raises `irq` at once while DONE is 1. -/
def Obligations.IrqenWriteSetsEnable : Prop :=
  ∀ (s : State) (v : Word), ∃ t, step (withAccess s (.write 0x14 .word v)) = .next t
    ∧ t = { s with doneIe := v.getLsbD 0, answer := some .writeOkay } ∧ (s.done = true → v.getLsbD 0 = true → t.irq = true)

/-- R185: a write of KEYw while IDLE stores the word and sets KEYMASK bit `w`; the other words and bits, and everything else, stay. -/
def Obligations.KeyWordWrite : Prop :=
  ∀ (s : State) (w : Fin 4) (v : Word), s.eng = .idle →
    ∃ t, step (withAccess s (.write (BitVec.ofNat 32 (0x30 + 4 * w.val)) .word v)) = .next t
      ∧ t = { s with key := t.key, keyMask := t.keyMask, answer := some .writeOkay }
      ∧ t.key.get w = v ∧ (∀ w', w' ≠ w → t.key.get w' = s.key.get w')
      ∧ ∀ b : Fin 4, t.keyMask.getLsbD b.val = (s.keyMask.getLsbD b.val || b == w)

/-- R186: a write of an operand or input register while IDLE stores all 32 bits; CT_LEN also sets LEN_VALID, OFFSET also OFF_VALID. -/
def Obligations.OperandRegisterWrite : Prop :=
  ∀ (s : State) (v : Word), s.eng = .idle →
    step (withAccess s (.write 0x18 .word v)) = .next { s with msgLen := v, answer := some .writeOkay }
    ∧ step (withAccess s (.write 0x1C .word v)) = .next { s with ctLen := v, lenValid := true, answer := some .writeOkay }
    ∧ step (withAccess s (.write 0x20 .word v)) = .next { s with carLen := v, answer := some .writeOkay }
    ∧ step (withAccess s (.write 0x24 .word v)) = .next { s with offset := v, offValid := true, answer := some .writeOkay }
    ∧ ∀ w : Fin 4, ∃ t, step (withAccess s (.write (BitVec.ofNat 32 (0x40 + 4 * w.val)) .word v)) = .next t
        ∧ t = { s with blkIn := t.blkIn, answer := some .writeOkay }
        ∧ t.blkIn.get w = v ∧ ∀ w', w' ≠ w → t.blkIn.get w' = s.blkIn.get w'

/-- R187: a write of ID, CAPS0, CAPS1, BLK_OUT or a reserved offset while IDLE changes nothing and answers OKAY. -/
def Obligations.ReadOnlyRegisterWriteIgnored : Prop :=
  ∀ (s : State) (a : Nat) (v : Word), s.eng = .idle → a % 4 = 0 →
    (a = 0x00 ∨ a = 0x04 ∨ a = 0x08 ∨ (0x50 ≤ a ∧ a ≤ 0x5C) ∨ a = 0x28 ∨ a = 0x2C ∨ (0x60 ≤ a ∧ a ≤ 0xFC)) →
    step (withAccess s (.write (BitVec.ofNat 32 a) .word v)) = .next { s with answer := some .writeOkay }

/-- R107: a write of CMD while IDLE stores the word, makes the engine BUSY, clears DONE and ERRCODE, answers OKAY, and checks nothing;
while BUSY it is dropped. -/
def Obligations.CommandStart : Prop :=
  ∀ (s : State) (w : Word),
    (s.eng = .idle → step (withAccess s (.write 0x0C .word w)) = .next
      { s with cmd := w, eng := .busy, done := false, errCode := .ok, answer := some .writeOkay })
    ∧ (s.eng = .busy → step (withAccess s (.write 0x0C .word w)) = .next { s with busyWr := true, answer := some .writeOkay })

/-- R37, R45: the bits of STATUS; every reserved bit reads 0. -/
def Obligations.StatusLayout : Prop :=
  ∀ (s : State) (n : Nat),
    (statusWord s).getLsbD n =
      if n = 0 then decide (s.eng = .busy)
      else if n = 1 then s.done
      else if 8 ≤ n ∧ n ≤ 11 then s.errCode.bits.getLsbD (n - 8)
      else if 16 ≤ n ∧ n ≤ 19 then s.keyMask.getLsbD (n - 16)
      else if n = 20 then s.offValid
      else if n = 21 then s.lenValid
      else if n = 24 then s.busyWr
      else false

/-- R188: what a read of each register offset returns; the key reads 0, and so does every reserved offset. The offsets that
R189 does not name read so while BUSY too. -/
def Obligations.RegisterReadValues : Prop :=
  ∀ s : State,
    let gives (a : Nat) (d : Word) := step (withAccess s (.read (BitVec.ofNat 32 a) .word)) =
      .next { s with answer := some (.readOkay d), tick := s.tick + 1 }
    gives 0x00 0x48504E47 ∧ gives 0x04 (BitVec.ofNat 32 (nblk s.params)) ∧ gives 0x08 (BitVec.ofNat 32 (carCap s.params))
    ∧ gives 0x0C s.cmd ∧ gives 0x14 (if s.doneIe then 1 else 0) ∧ gives 0x20 s.carLen
    ∧ (∀ w : Fin 4, gives (0x30 + 4 * w.val) 0 ∧ gives (0x40 + 4 * w.val) (s.blkIn.get w))
    ∧ (∀ a, a % 4 = 0 → (a = 0x28 ∨ a = 0x2C ∨ (0x60 ≤ a ∧ a ≤ 0xFC)) → gives a 0)
    ∧ (s.eng = .idle → gives 0x10 (statusWord s) ∧ gives 0x18 s.msgLen ∧ gives 0x1C s.ctLen ∧ gives 0x24 s.offset
        ∧ ∀ w : Fin 4, gives (0x50 + 4 * w.val) (s.blkOut.get w))

/-- While BUSY a read of STATUS shows every bit but 20 and 21 as it is, and a read of what a command may write (MSG_LEN, CT_LEN,
OFFSET, BLK_OUT, a window) returns the free draw of the access, whatever is held there (R189; the draws are log 7). -/
def Obligations.ReadWhileBusy : Prop :=
  ∀ s : State, s.eng = .busy →
    let gives (a : Word) (n : AccessSize) (d : Word) := step (withAccess s (.read a n)) =
      .next { s with answer := some (.readOkay d), tick := s.tick + 1 }
    (∃ d, gives 0x10 .word d ∧ ∀ n, n ≠ 20 → n ≠ 21 → d.getLsbD n = (statusWord s).getLsbD n)
    ∧ gives 0x18 .word (Config.anyWord s.tick) ∧ gives 0x1C .word (Config.anyWord s.tick) ∧ gives 0x24 .word (Config.anyWord s.tick)
    ∧ (∀ w : Fin 4, gives (BitVec.ofNat 32 (0x50 + 4 * w.val)) .word (Config.anyWord s.tick))
    ∧ ∀ b i, i < capacity s.params b →
        gives (windowAddr b i) .byte (((Config.anyWord s.tick).extractLsb' 0 8).setWidth 32)
        ∧ (i % 4 = 0 → gives (windowAddr b i) .word (Config.anyWord s.tick))

/-- R190: a write of a window while IDLE stores bits 7:0, or four lanes at an aligned index, marks those cells WRITTEN, and changes
nothing else. -/
def Obligations.WindowWrite : Prop :=
  ∀ (s : State) (b : Buffer) (i : Nat) (v : Word), s.eng = .idle → i < capacity s.params b →
    (∃ t, step (withAccess s (.write (windowAddr b i) .byte v)) = .next t
      ∧ t = { s with msg := t.msg, ct := t.ct, car := t.car, answer := some .writeOkay }
      ∧ (t.buf b).read i = some (v.extractLsb' 0 8) ∧ SameOutside (s.buf b) (t.buf b) i 1
      ∧ ∀ b', b' ≠ b → t.buf b' = s.buf b')
    ∧ (i % 4 = 0 → ∃ t, step (withAccess s (.write (windowAddr b i) .word v)) = .next t
      ∧ t = { s with msg := t.msg, ct := t.ct, car := t.car, answer := some .writeOkay }
      ∧ (∀ k, k < 4 → (t.buf b).read (i + k) = some (v.extractLsb' (8 * k) 8)) ∧ SameOutside (s.buf b) (t.buf b) i 4
      ∧ ∀ b', b' ≠ b → t.buf b' = s.buf b')

/-- R191: a read of a window while IDLE returns the byte zero-extended, or four bytes at an aligned index, the first lowest; an UNDEFINED
byte reads as the draw of its cell. -/
def Obligations.WindowRead : Prop :=
  ∀ (s : State) (b : Buffer) (i : Nat), s.eng = .idle → i < capacity s.params b →
    (step (withAccess s (.read (windowAddr b i) .byte)) = .next
      { s with answer := some (.readOkay ((s.readByte b i).setWidth 32)), tick := s.tick + 1 })
    ∧ (i % 4 = 0 → ∃ d : Word, step (withAccess s (.read (windowAddr b i) .word)) = .next
          { s with answer := some (.readOkay d), tick := s.tick + 1 }
        ∧ ∀ k, k < 4 → d.extractLsb' (8 * k) 8 = s.readByte b (i + k))

/-- R76: a byte written is seen in its lane of the aligned word, and each byte of a word written is seen by a byte read at its
address. -/
def Obligations.MixedWidthViews : Prop :=
  ∀ (s : State) (b : Buffer) (i : Nat) (v : Word), s.eng = .idle → i < capacity s.params b →
    (∃ t d, step (withAccess s (.write (windowAddr b i) .byte v)) = .next t
      ∧ step (withAccess t (.read (windowAddr b (i - i % 4)) .word)) = .next { t with answer := some (.readOkay d), tick := t.tick + 1 }
      ∧ d.extractLsb' (8 * (i % 4)) 8 = v.extractLsb' 0 8)
    ∧ (i % 4 = 0 → ∀ k, k < 4 → ∃ t, step (withAccess s (.write (windowAddr b i) .word v)) = .next t
      ∧ step (withAccess t (.read (windowAddr b (i + k)) .byte)) = .next
          { t with answer := some (.readOkay ((v.extractLsb' (8 * k) 8).setWidth 32)), tick := t.tick + 1 })

/-- The key is write-only (R51, R220): two states that differ in the key words alone answer every host access alike, and still differ
in the key words alone. -/
def Obligations.HostCannotReadTheKey : Prop :=
  ∀ (s : State) (k : Quad) (h : HostAccess), ∃ t t', step (withAccess s h) = .next t
    ∧ step (withAccess { s with key := k } h) = .next t' ∧ t' = { t with key := t'.key }

/-- R87: while a command runs, no host access changes what it reads: CMD, the registers, the buffers, the key and the flags stay as they
stood when it started. -/
def Obligations.RunningCommandSeesItsInputs : Prop :=
  ∀ (s t : State) (h : HostAccess), s.eng = .busy → step (withAccess s h) = .next t →
    t = { s with done := t.done, busyWr := t.busyWr, doneIe := t.doneIe, answer := t.answer, tick := t.tick }

/-! ## Reset, interrupt, flags -/

/-- R231: a reset, IDLE or BUSY, puts every piece of state at its reset value and makes every buffer cell UNDEFINED; a running command is
aborted and none of its writes are made. -/
def Obligations.ResetTakesEveryFieldToItsValue : Prop :=
  ∀ (s : State) (rest : List Event), s.events = .rst :: rest →
    ∃ t, step s = .next t ∧ t.eng = .idle
      ∧ t.msgLen = 0 ∧ t.ctLen = 0 ∧ t.carLen = 0 ∧ t.offset = 0 ∧ t.cmd = 0
      ∧ statusWord t = 0 ∧ t.doneIe = false ∧ t.irq = false
      ∧ (∀ w, t.key.get w = 0 ∧ t.blkIn.get w = 0 ∧ t.blkOut.get w = 0)
      ∧ ∀ b a, (t.buf b).read a = none

/-- R217: `irq` rises only at a completion with DONE_IE set or at a write of IRQEN that sets DONE_IE while DONE is 1; it falls only at a
write of STATUS with bit 1 set, at a command start, at a write of IRQEN that clears DONE_IE, or at reset. -/
def Obligations.IrqChangesOnlyAtItsCauses : Prop :=
  ∀ s t : State, step s = .next t →
    (s.irq = false → t.irq = true →
      (s.eng = .busy ∧ (∃ rest, EngineTurn s rest) ∧ t.eng = .idle ∧ s.doneIe = true)
      ∨ (∃ v rest, s.events = .access (.write 0x14 .word v) :: rest ∧ v.getLsbD 0 = true ∧ s.done = true))
    ∧ (s.irq = true → t.irq = false →
      (∃ v rest, s.events = .access (.write 0x10 .word v) :: rest ∧ v.getLsbD 1 = true)
      ∨ (∃ v rest, s.events = .access (.write 0x0C .word v) :: rest ∧ s.eng = .idle)
      ∨ (∃ v rest, s.events = .access (.write 0x14 .word v) :: rest ∧ v.getLsbD 0 = false)
      ∨ (∃ rest, s.events = .rst :: rest))

/-- ENG goes from IDLE to BUSY only at a write of CMD, which CMD then holds, and from BUSY to IDLE only at a completion step or at
reset (R36, R107, R109, R231). -/
def Obligations.EngineStateChangesOnlyAtStartCompletionReset : Prop :=
  ∀ s t : State, step s = .next t →
    (s.eng = .idle → t.eng = .busy → ∃ v rest, s.events = .access (.write 0x0C .word v) :: rest ∧ t.cmd = v)
    ∧ (s.eng = .busy → t.eng = .idle → (∃ rest, EngineTurn s rest ∧ t.done = true) ∨ ∃ rest, s.events = .rst :: rest)

/-- Nothing clears KEYMASK, OFF_VALID or LEN_VALID except reset (R41, R42, R43, R239). -/
def Obligations.StickyFlagsClearedOnlyByReset : Prop :=
  ∀ s t : State, step s = .next t → s.events.head? ≠ some .rst →
    (∀ w, w < 4 → s.keyMask.getLsbD w = true → t.keyMask.getLsbD w = true)
    ∧ (s.offValid = true → t.offValid = true) ∧ (s.lenValid = true → t.lenValid = true)

/-- A key word changes only at a host write of that word while IDLE, or at reset (R51, R182, R185). -/
def Obligations.KeyChangesOnlyByItsWrite : Prop :=
  ∀ (s t : State) (w : Fin 4), step s = .next t → t.key.get w ≠ s.key.get w →
    (∃ v rest, s.events = .access (.write (BitVec.ofNat 32 (0x30 + 4 * w.val)) .word v) :: rest ∧ s.eng = .idle ∧ t.key.get w = v)
    ∨ ∃ rest, s.events = .rst :: rest
end

