-- ==== Sys2Proof/Laws/State.lean ====
section
/-! SUPPORT. One lemma per field per update of State, true by unfolding the update once: later proofs unfold no update.
This file is a table: it says of every update which field it writes and that it leaves each other field alone. -/

namespace Sys2Proof.Machine

/-! ### `State.writeCtLen` -/

@[simp] theorem State.writeCtLen_msgLen (s : State) (v : Word) : (s.writeCtLen v).msgLen = s.msgLen := rfl
@[simp] theorem State.writeCtLen_ctLen (s : State) (v : Word) : (s.writeCtLen v).ctLen = v := rfl
@[simp] theorem State.writeCtLen_carLen (s : State) (v : Word) : (s.writeCtLen v).carLen = s.carLen := rfl
@[simp] theorem State.writeCtLen_offset (s : State) (v : Word) : (s.writeCtLen v).offset = s.offset := rfl
@[simp] theorem State.writeCtLen_cmd (s : State) (v : Word) : (s.writeCtLen v).cmd = s.cmd := rfl
@[simp] theorem State.writeCtLen_eng (s : State) (v : Word) : (s.writeCtLen v).eng = s.eng := rfl
@[simp] theorem State.writeCtLen_done (s : State) (v : Word) : (s.writeCtLen v).done = s.done := rfl
@[simp] theorem State.writeCtLen_errCode (s : State) (v : Word) : (s.writeCtLen v).errCode = s.errCode := rfl
@[simp] theorem State.writeCtLen_keyMask (s : State) (v : Word) : (s.writeCtLen v).keyMask = s.keyMask := rfl
@[simp] theorem State.writeCtLen_offValid (s : State) (v : Word) : (s.writeCtLen v).offValid = s.offValid := rfl
@[simp] theorem State.writeCtLen_lenValid (s : State) (v : Word) : (s.writeCtLen v).lenValid = true := rfl
@[simp] theorem State.writeCtLen_busyWr (s : State) (v : Word) : (s.writeCtLen v).busyWr = s.busyWr := rfl
@[simp] theorem State.writeCtLen_doneIe (s : State) (v : Word) : (s.writeCtLen v).doneIe = s.doneIe := rfl
@[simp] theorem State.writeCtLen_key (s : State) (v : Word) : (s.writeCtLen v).key = s.key := rfl
@[simp] theorem State.writeCtLen_blkIn (s : State) (v : Word) : (s.writeCtLen v).blkIn = s.blkIn := rfl
@[simp] theorem State.writeCtLen_blkOut (s : State) (v : Word) : (s.writeCtLen v).blkOut = s.blkOut := rfl
@[simp] theorem State.writeCtLen_msg (s : State) (v : Word) : (s.writeCtLen v).msg = s.msg := rfl
@[simp] theorem State.writeCtLen_ct (s : State) (v : Word) : (s.writeCtLen v).ct = s.ct := rfl
@[simp] theorem State.writeCtLen_car (s : State) (v : Word) : (s.writeCtLen v).car = s.car := rfl
@[simp] theorem State.writeCtLen_params (s : State) (v : Word) : (s.writeCtLen v).params = s.params := rfl
@[simp] theorem State.writeCtLen_tick (s : State) (v : Word) : (s.writeCtLen v).tick = s.tick := rfl
@[simp] theorem State.writeCtLen_events (s : State) (v : Word) : (s.writeCtLen v).events = s.events := rfl
@[simp] theorem State.writeCtLen_answer (s : State) (v : Word) : (s.writeCtLen v).answer = s.answer := rfl

/-! ### `State.writeOffset` -/

@[simp] theorem State.writeOffset_msgLen (s : State) (v : Word) : (s.writeOffset v).msgLen = s.msgLen := rfl
@[simp] theorem State.writeOffset_ctLen (s : State) (v : Word) : (s.writeOffset v).ctLen = s.ctLen := rfl
@[simp] theorem State.writeOffset_carLen (s : State) (v : Word) : (s.writeOffset v).carLen = s.carLen := rfl
@[simp] theorem State.writeOffset_offset (s : State) (v : Word) : (s.writeOffset v).offset = v := rfl
@[simp] theorem State.writeOffset_cmd (s : State) (v : Word) : (s.writeOffset v).cmd = s.cmd := rfl
@[simp] theorem State.writeOffset_eng (s : State) (v : Word) : (s.writeOffset v).eng = s.eng := rfl
@[simp] theorem State.writeOffset_done (s : State) (v : Word) : (s.writeOffset v).done = s.done := rfl
@[simp] theorem State.writeOffset_errCode (s : State) (v : Word) : (s.writeOffset v).errCode = s.errCode := rfl
@[simp] theorem State.writeOffset_keyMask (s : State) (v : Word) : (s.writeOffset v).keyMask = s.keyMask := rfl
@[simp] theorem State.writeOffset_offValid (s : State) (v : Word) : (s.writeOffset v).offValid = true := rfl
@[simp] theorem State.writeOffset_lenValid (s : State) (v : Word) : (s.writeOffset v).lenValid = s.lenValid := rfl
@[simp] theorem State.writeOffset_busyWr (s : State) (v : Word) : (s.writeOffset v).busyWr = s.busyWr := rfl
@[simp] theorem State.writeOffset_doneIe (s : State) (v : Word) : (s.writeOffset v).doneIe = s.doneIe := rfl
@[simp] theorem State.writeOffset_key (s : State) (v : Word) : (s.writeOffset v).key = s.key := rfl
@[simp] theorem State.writeOffset_blkIn (s : State) (v : Word) : (s.writeOffset v).blkIn = s.blkIn := rfl
@[simp] theorem State.writeOffset_blkOut (s : State) (v : Word) : (s.writeOffset v).blkOut = s.blkOut := rfl
@[simp] theorem State.writeOffset_msg (s : State) (v : Word) : (s.writeOffset v).msg = s.msg := rfl
@[simp] theorem State.writeOffset_ct (s : State) (v : Word) : (s.writeOffset v).ct = s.ct := rfl
@[simp] theorem State.writeOffset_car (s : State) (v : Word) : (s.writeOffset v).car = s.car := rfl
@[simp] theorem State.writeOffset_params (s : State) (v : Word) : (s.writeOffset v).params = s.params := rfl
@[simp] theorem State.writeOffset_tick (s : State) (v : Word) : (s.writeOffset v).tick = s.tick := rfl
@[simp] theorem State.writeOffset_events (s : State) (v : Word) : (s.writeOffset v).events = s.events := rfl
@[simp] theorem State.writeOffset_answer (s : State) (v : Word) : (s.writeOffset v).answer = s.answer := rfl

/-! ### `State.start` -/

@[simp] theorem State.start_msgLen (s : State) (w : Word) : (s.start w).msgLen = s.msgLen := rfl
@[simp] theorem State.start_ctLen (s : State) (w : Word) : (s.start w).ctLen = s.ctLen := rfl
@[simp] theorem State.start_carLen (s : State) (w : Word) : (s.start w).carLen = s.carLen := rfl
@[simp] theorem State.start_offset (s : State) (w : Word) : (s.start w).offset = s.offset := rfl
@[simp] theorem State.start_cmd (s : State) (w : Word) : (s.start w).cmd = w := rfl
@[simp] theorem State.start_eng (s : State) (w : Word) : (s.start w).eng = .busy := rfl
@[simp] theorem State.start_done (s : State) (w : Word) : (s.start w).done = false := rfl
@[simp] theorem State.start_errCode (s : State) (w : Word) : (s.start w).errCode = .ok := rfl
@[simp] theorem State.start_keyMask (s : State) (w : Word) : (s.start w).keyMask = s.keyMask := rfl
@[simp] theorem State.start_offValid (s : State) (w : Word) : (s.start w).offValid = s.offValid := rfl
@[simp] theorem State.start_lenValid (s : State) (w : Word) : (s.start w).lenValid = s.lenValid := rfl
@[simp] theorem State.start_busyWr (s : State) (w : Word) : (s.start w).busyWr = s.busyWr := rfl
@[simp] theorem State.start_doneIe (s : State) (w : Word) : (s.start w).doneIe = s.doneIe := rfl
@[simp] theorem State.start_key (s : State) (w : Word) : (s.start w).key = s.key := rfl
@[simp] theorem State.start_blkIn (s : State) (w : Word) : (s.start w).blkIn = s.blkIn := rfl
@[simp] theorem State.start_blkOut (s : State) (w : Word) : (s.start w).blkOut = s.blkOut := rfl
@[simp] theorem State.start_msg (s : State) (w : Word) : (s.start w).msg = s.msg := rfl
@[simp] theorem State.start_ct (s : State) (w : Word) : (s.start w).ct = s.ct := rfl
@[simp] theorem State.start_car (s : State) (w : Word) : (s.start w).car = s.car := rfl
@[simp] theorem State.start_params (s : State) (w : Word) : (s.start w).params = s.params := rfl
@[simp] theorem State.start_tick (s : State) (w : Word) : (s.start w).tick = s.tick := rfl
@[simp] theorem State.start_events (s : State) (w : Word) : (s.start w).events = s.events := rfl
@[simp] theorem State.start_answer (s : State) (w : Word) : (s.start w).answer = s.answer := rfl

/-! ### `State.completed` -/

@[simp] theorem State.completed_msgLen (s : State) (code : ErrCode) : (s.completed code).msgLen = s.msgLen := rfl
@[simp] theorem State.completed_ctLen (s : State) (code : ErrCode) : (s.completed code).ctLen = s.ctLen := rfl
@[simp] theorem State.completed_carLen (s : State) (code : ErrCode) : (s.completed code).carLen = s.carLen := rfl
@[simp] theorem State.completed_offset (s : State) (code : ErrCode) : (s.completed code).offset = s.offset := rfl
@[simp] theorem State.completed_cmd (s : State) (code : ErrCode) : (s.completed code).cmd = s.cmd := rfl
@[simp] theorem State.completed_eng (s : State) (code : ErrCode) : (s.completed code).eng = .idle := rfl
@[simp] theorem State.completed_done (s : State) (code : ErrCode) : (s.completed code).done = true := rfl
@[simp] theorem State.completed_errCode (s : State) (code : ErrCode) : (s.completed code).errCode = code := rfl
@[simp] theorem State.completed_keyMask (s : State) (code : ErrCode) : (s.completed code).keyMask = s.keyMask := rfl
@[simp] theorem State.completed_offValid (s : State) (code : ErrCode) : (s.completed code).offValid = s.offValid := rfl
@[simp] theorem State.completed_lenValid (s : State) (code : ErrCode) : (s.completed code).lenValid = s.lenValid := rfl
@[simp] theorem State.completed_busyWr (s : State) (code : ErrCode) : (s.completed code).busyWr = s.busyWr := rfl
@[simp] theorem State.completed_doneIe (s : State) (code : ErrCode) : (s.completed code).doneIe = s.doneIe := rfl
@[simp] theorem State.completed_key (s : State) (code : ErrCode) : (s.completed code).key = s.key := rfl
@[simp] theorem State.completed_blkIn (s : State) (code : ErrCode) : (s.completed code).blkIn = s.blkIn := rfl
@[simp] theorem State.completed_blkOut (s : State) (code : ErrCode) : (s.completed code).blkOut = s.blkOut := rfl
@[simp] theorem State.completed_msg (s : State) (code : ErrCode) : (s.completed code).msg = s.msg := rfl
@[simp] theorem State.completed_ct (s : State) (code : ErrCode) : (s.completed code).ct = s.ct := rfl
@[simp] theorem State.completed_car (s : State) (code : ErrCode) : (s.completed code).car = s.car := rfl
@[simp] theorem State.completed_params (s : State) (code : ErrCode) : (s.completed code).params = s.params := rfl
@[simp] theorem State.completed_tick (s : State) (code : ErrCode) : (s.completed code).tick = s.tick + 1 := rfl
@[simp] theorem State.completed_events (s : State) (code : ErrCode) : (s.completed code).events = s.events := rfl
@[simp] theorem State.completed_answer (s : State) (code : ErrCode) : (s.completed code).answer = s.answer := rfl

/-! ### `State.putBlkOut` -/

@[simp] theorem State.putBlkOut_msgLen (s : State) (y : Block) : (s.putBlkOut y).msgLen = s.msgLen := rfl
@[simp] theorem State.putBlkOut_ctLen (s : State) (y : Block) : (s.putBlkOut y).ctLen = s.ctLen := rfl
@[simp] theorem State.putBlkOut_carLen (s : State) (y : Block) : (s.putBlkOut y).carLen = s.carLen := rfl
@[simp] theorem State.putBlkOut_offset (s : State) (y : Block) : (s.putBlkOut y).offset = s.offset := rfl
@[simp] theorem State.putBlkOut_cmd (s : State) (y : Block) : (s.putBlkOut y).cmd = s.cmd := rfl
@[simp] theorem State.putBlkOut_eng (s : State) (y : Block) : (s.putBlkOut y).eng = s.eng := rfl
@[simp] theorem State.putBlkOut_done (s : State) (y : Block) : (s.putBlkOut y).done = s.done := rfl
@[simp] theorem State.putBlkOut_errCode (s : State) (y : Block) : (s.putBlkOut y).errCode = s.errCode := rfl
@[simp] theorem State.putBlkOut_keyMask (s : State) (y : Block) : (s.putBlkOut y).keyMask = s.keyMask := rfl
@[simp] theorem State.putBlkOut_offValid (s : State) (y : Block) : (s.putBlkOut y).offValid = s.offValid := rfl
@[simp] theorem State.putBlkOut_lenValid (s : State) (y : Block) : (s.putBlkOut y).lenValid = s.lenValid := rfl
@[simp] theorem State.putBlkOut_busyWr (s : State) (y : Block) : (s.putBlkOut y).busyWr = s.busyWr := rfl
@[simp] theorem State.putBlkOut_doneIe (s : State) (y : Block) : (s.putBlkOut y).doneIe = s.doneIe := rfl
@[simp] theorem State.putBlkOut_key (s : State) (y : Block) : (s.putBlkOut y).key = s.key := rfl
@[simp] theorem State.putBlkOut_blkIn (s : State) (y : Block) : (s.putBlkOut y).blkIn = s.blkIn := rfl
@[simp] theorem State.putBlkOut_blkOut (s : State) (y : Block) : (s.putBlkOut y).blkOut = Quad.ofBytes y := rfl
@[simp] theorem State.putBlkOut_msg (s : State) (y : Block) : (s.putBlkOut y).msg = s.msg := rfl
@[simp] theorem State.putBlkOut_ct (s : State) (y : Block) : (s.putBlkOut y).ct = s.ct := rfl
@[simp] theorem State.putBlkOut_car (s : State) (y : Block) : (s.putBlkOut y).car = s.car := rfl
@[simp] theorem State.putBlkOut_params (s : State) (y : Block) : (s.putBlkOut y).params = s.params := rfl
@[simp] theorem State.putBlkOut_tick (s : State) (y : Block) : (s.putBlkOut y).tick = s.tick := rfl
@[simp] theorem State.putBlkOut_events (s : State) (y : Block) : (s.putBlkOut y).events = s.events := rfl
@[simp] theorem State.putBlkOut_answer (s : State) (y : Block) : (s.putBlkOut y).answer = s.answer := rfl

/-! ### `State.writeStatus` -/

@[simp] theorem State.writeStatus_msgLen (s : State) (v : Word) : (s.writeStatus v).msgLen = s.msgLen := rfl
@[simp] theorem State.writeStatus_ctLen (s : State) (v : Word) : (s.writeStatus v).ctLen = s.ctLen := rfl
@[simp] theorem State.writeStatus_carLen (s : State) (v : Word) : (s.writeStatus v).carLen = s.carLen := rfl
@[simp] theorem State.writeStatus_offset (s : State) (v : Word) : (s.writeStatus v).offset = s.offset := rfl
@[simp] theorem State.writeStatus_cmd (s : State) (v : Word) : (s.writeStatus v).cmd = s.cmd := rfl
@[simp] theorem State.writeStatus_eng (s : State) (v : Word) : (s.writeStatus v).eng = s.eng := rfl
@[simp] theorem State.writeStatus_done (s : State) (v : Word) : (s.writeStatus v).done = (s.done && !v.getLsbD 1) := rfl
@[simp] theorem State.writeStatus_errCode (s : State) (v : Word) : (s.writeStatus v).errCode = s.errCode := rfl
@[simp] theorem State.writeStatus_keyMask (s : State) (v : Word) : (s.writeStatus v).keyMask = s.keyMask := rfl
@[simp] theorem State.writeStatus_offValid (s : State) (v : Word) : (s.writeStatus v).offValid = s.offValid := rfl
@[simp] theorem State.writeStatus_lenValid (s : State) (v : Word) : (s.writeStatus v).lenValid = s.lenValid := rfl
@[simp] theorem State.writeStatus_busyWr (s : State) (v : Word) : (s.writeStatus v).busyWr = (s.busyWr && !v.getLsbD 24) := rfl
@[simp] theorem State.writeStatus_doneIe (s : State) (v : Word) : (s.writeStatus v).doneIe = s.doneIe := rfl
@[simp] theorem State.writeStatus_key (s : State) (v : Word) : (s.writeStatus v).key = s.key := rfl
@[simp] theorem State.writeStatus_blkIn (s : State) (v : Word) : (s.writeStatus v).blkIn = s.blkIn := rfl
@[simp] theorem State.writeStatus_blkOut (s : State) (v : Word) : (s.writeStatus v).blkOut = s.blkOut := rfl
@[simp] theorem State.writeStatus_msg (s : State) (v : Word) : (s.writeStatus v).msg = s.msg := rfl
@[simp] theorem State.writeStatus_ct (s : State) (v : Word) : (s.writeStatus v).ct = s.ct := rfl
@[simp] theorem State.writeStatus_car (s : State) (v : Word) : (s.writeStatus v).car = s.car := rfl
@[simp] theorem State.writeStatus_params (s : State) (v : Word) : (s.writeStatus v).params = s.params := rfl
@[simp] theorem State.writeStatus_tick (s : State) (v : Word) : (s.writeStatus v).tick = s.tick := rfl
@[simp] theorem State.writeStatus_events (s : State) (v : Word) : (s.writeStatus v).events = s.events := rfl
@[simp] theorem State.writeStatus_answer (s : State) (v : Word) : (s.writeStatus v).answer = s.answer := rfl

/-! ### `State.writeIrqen` -/

@[simp] theorem State.writeIrqen_msgLen (s : State) (v : Word) : (s.writeIrqen v).msgLen = s.msgLen := rfl
@[simp] theorem State.writeIrqen_ctLen (s : State) (v : Word) : (s.writeIrqen v).ctLen = s.ctLen := rfl
@[simp] theorem State.writeIrqen_carLen (s : State) (v : Word) : (s.writeIrqen v).carLen = s.carLen := rfl
@[simp] theorem State.writeIrqen_offset (s : State) (v : Word) : (s.writeIrqen v).offset = s.offset := rfl
@[simp] theorem State.writeIrqen_cmd (s : State) (v : Word) : (s.writeIrqen v).cmd = s.cmd := rfl
@[simp] theorem State.writeIrqen_eng (s : State) (v : Word) : (s.writeIrqen v).eng = s.eng := rfl
@[simp] theorem State.writeIrqen_done (s : State) (v : Word) : (s.writeIrqen v).done = s.done := rfl
@[simp] theorem State.writeIrqen_errCode (s : State) (v : Word) : (s.writeIrqen v).errCode = s.errCode := rfl
@[simp] theorem State.writeIrqen_keyMask (s : State) (v : Word) : (s.writeIrqen v).keyMask = s.keyMask := rfl
@[simp] theorem State.writeIrqen_offValid (s : State) (v : Word) : (s.writeIrqen v).offValid = s.offValid := rfl
@[simp] theorem State.writeIrqen_lenValid (s : State) (v : Word) : (s.writeIrqen v).lenValid = s.lenValid := rfl
@[simp] theorem State.writeIrqen_busyWr (s : State) (v : Word) : (s.writeIrqen v).busyWr = s.busyWr := rfl
@[simp] theorem State.writeIrqen_doneIe (s : State) (v : Word) : (s.writeIrqen v).doneIe = v.getLsbD 0 := rfl
@[simp] theorem State.writeIrqen_key (s : State) (v : Word) : (s.writeIrqen v).key = s.key := rfl
@[simp] theorem State.writeIrqen_blkIn (s : State) (v : Word) : (s.writeIrqen v).blkIn = s.blkIn := rfl
@[simp] theorem State.writeIrqen_blkOut (s : State) (v : Word) : (s.writeIrqen v).blkOut = s.blkOut := rfl
@[simp] theorem State.writeIrqen_msg (s : State) (v : Word) : (s.writeIrqen v).msg = s.msg := rfl
@[simp] theorem State.writeIrqen_ct (s : State) (v : Word) : (s.writeIrqen v).ct = s.ct := rfl
@[simp] theorem State.writeIrqen_car (s : State) (v : Word) : (s.writeIrqen v).car = s.car := rfl
@[simp] theorem State.writeIrqen_params (s : State) (v : Word) : (s.writeIrqen v).params = s.params := rfl
@[simp] theorem State.writeIrqen_tick (s : State) (v : Word) : (s.writeIrqen v).tick = s.tick := rfl
@[simp] theorem State.writeIrqen_events (s : State) (v : Word) : (s.writeIrqen v).events = s.events := rfl
@[simp] theorem State.writeIrqen_answer (s : State) (v : Word) : (s.writeIrqen v).answer = s.answer := rfl

/-! ### `State.writeKey` -/

@[simp] theorem State.writeKey_msgLen (s : State) (w : Fin 4) (v : Word) : (s.writeKey w v).msgLen = s.msgLen := rfl
@[simp] theorem State.writeKey_ctLen (s : State) (w : Fin 4) (v : Word) : (s.writeKey w v).ctLen = s.ctLen := rfl
@[simp] theorem State.writeKey_carLen (s : State) (w : Fin 4) (v : Word) : (s.writeKey w v).carLen = s.carLen := rfl
@[simp] theorem State.writeKey_offset (s : State) (w : Fin 4) (v : Word) : (s.writeKey w v).offset = s.offset := rfl
@[simp] theorem State.writeKey_cmd (s : State) (w : Fin 4) (v : Word) : (s.writeKey w v).cmd = s.cmd := rfl
@[simp] theorem State.writeKey_eng (s : State) (w : Fin 4) (v : Word) : (s.writeKey w v).eng = s.eng := rfl
@[simp] theorem State.writeKey_done (s : State) (w : Fin 4) (v : Word) : (s.writeKey w v).done = s.done := rfl
@[simp] theorem State.writeKey_errCode (s : State) (w : Fin 4) (v : Word) : (s.writeKey w v).errCode = s.errCode := rfl
@[simp] theorem State.writeKey_keyMask (s : State) (w : Fin 4) (v : Word) : (s.writeKey w v).keyMask = (s.keyMask ||| (1#4 <<< w.val)) := rfl
@[simp] theorem State.writeKey_offValid (s : State) (w : Fin 4) (v : Word) : (s.writeKey w v).offValid = s.offValid := rfl
@[simp] theorem State.writeKey_lenValid (s : State) (w : Fin 4) (v : Word) : (s.writeKey w v).lenValid = s.lenValid := rfl
@[simp] theorem State.writeKey_busyWr (s : State) (w : Fin 4) (v : Word) : (s.writeKey w v).busyWr = s.busyWr := rfl
@[simp] theorem State.writeKey_doneIe (s : State) (w : Fin 4) (v : Word) : (s.writeKey w v).doneIe = s.doneIe := rfl
@[simp] theorem State.writeKey_key (s : State) (w : Fin 4) (v : Word) : (s.writeKey w v).key = s.key.set w v := rfl
@[simp] theorem State.writeKey_blkIn (s : State) (w : Fin 4) (v : Word) : (s.writeKey w v).blkIn = s.blkIn := rfl
@[simp] theorem State.writeKey_blkOut (s : State) (w : Fin 4) (v : Word) : (s.writeKey w v).blkOut = s.blkOut := rfl
@[simp] theorem State.writeKey_msg (s : State) (w : Fin 4) (v : Word) : (s.writeKey w v).msg = s.msg := rfl
@[simp] theorem State.writeKey_ct (s : State) (w : Fin 4) (v : Word) : (s.writeKey w v).ct = s.ct := rfl
@[simp] theorem State.writeKey_car (s : State) (w : Fin 4) (v : Word) : (s.writeKey w v).car = s.car := rfl
@[simp] theorem State.writeKey_params (s : State) (w : Fin 4) (v : Word) : (s.writeKey w v).params = s.params := rfl
@[simp] theorem State.writeKey_tick (s : State) (w : Fin 4) (v : Word) : (s.writeKey w v).tick = s.tick := rfl
@[simp] theorem State.writeKey_events (s : State) (w : Fin 4) (v : Word) : (s.writeKey w v).events = s.events := rfl
@[simp] theorem State.writeKey_answer (s : State) (w : Fin 4) (v : Word) : (s.writeKey w v).answer = s.answer := rfl

/-! ### `State.dropWrite` -/

@[simp] theorem State.dropWrite_msgLen (s : State) : (s.dropWrite).msgLen = s.msgLen := rfl
@[simp] theorem State.dropWrite_ctLen (s : State) : (s.dropWrite).ctLen = s.ctLen := rfl
@[simp] theorem State.dropWrite_carLen (s : State) : (s.dropWrite).carLen = s.carLen := rfl
@[simp] theorem State.dropWrite_offset (s : State) : (s.dropWrite).offset = s.offset := rfl
@[simp] theorem State.dropWrite_cmd (s : State) : (s.dropWrite).cmd = s.cmd := rfl
@[simp] theorem State.dropWrite_eng (s : State) : (s.dropWrite).eng = s.eng := rfl
@[simp] theorem State.dropWrite_done (s : State) : (s.dropWrite).done = s.done := rfl
@[simp] theorem State.dropWrite_errCode (s : State) : (s.dropWrite).errCode = s.errCode := rfl
@[simp] theorem State.dropWrite_keyMask (s : State) : (s.dropWrite).keyMask = s.keyMask := rfl
@[simp] theorem State.dropWrite_offValid (s : State) : (s.dropWrite).offValid = s.offValid := rfl
@[simp] theorem State.dropWrite_lenValid (s : State) : (s.dropWrite).lenValid = s.lenValid := rfl
@[simp] theorem State.dropWrite_busyWr (s : State) : (s.dropWrite).busyWr = true := rfl
@[simp] theorem State.dropWrite_doneIe (s : State) : (s.dropWrite).doneIe = s.doneIe := rfl
@[simp] theorem State.dropWrite_key (s : State) : (s.dropWrite).key = s.key := rfl
@[simp] theorem State.dropWrite_blkIn (s : State) : (s.dropWrite).blkIn = s.blkIn := rfl
@[simp] theorem State.dropWrite_blkOut (s : State) : (s.dropWrite).blkOut = s.blkOut := rfl
@[simp] theorem State.dropWrite_msg (s : State) : (s.dropWrite).msg = s.msg := rfl
@[simp] theorem State.dropWrite_ct (s : State) : (s.dropWrite).ct = s.ct := rfl
@[simp] theorem State.dropWrite_car (s : State) : (s.dropWrite).car = s.car := rfl
@[simp] theorem State.dropWrite_params (s : State) : (s.dropWrite).params = s.params := rfl
@[simp] theorem State.dropWrite_tick (s : State) : (s.dropWrite).tick = s.tick := rfl
@[simp] theorem State.dropWrite_events (s : State) : (s.dropWrite).events = s.events := rfl
@[simp] theorem State.dropWrite_answer (s : State) : (s.dropWrite).answer = s.answer := rfl

/-! ### `State.memWrite` -/

@[simp] theorem State.memWrite_msgLen (s : State) (b : Buffer) (i : Nat) (vs : List Byte) : (s.memWrite b i vs).msgLen = s.msgLen := by cases b <;> rfl
@[simp] theorem State.memWrite_ctLen (s : State) (b : Buffer) (i : Nat) (vs : List Byte) : (s.memWrite b i vs).ctLen = s.ctLen := by cases b <;> rfl
@[simp] theorem State.memWrite_carLen (s : State) (b : Buffer) (i : Nat) (vs : List Byte) : (s.memWrite b i vs).carLen = s.carLen := by cases b <;> rfl
@[simp] theorem State.memWrite_offset (s : State) (b : Buffer) (i : Nat) (vs : List Byte) : (s.memWrite b i vs).offset = s.offset := by cases b <;> rfl
@[simp] theorem State.memWrite_cmd (s : State) (b : Buffer) (i : Nat) (vs : List Byte) : (s.memWrite b i vs).cmd = s.cmd := by cases b <;> rfl
@[simp] theorem State.memWrite_eng (s : State) (b : Buffer) (i : Nat) (vs : List Byte) : (s.memWrite b i vs).eng = s.eng := by cases b <;> rfl
@[simp] theorem State.memWrite_done (s : State) (b : Buffer) (i : Nat) (vs : List Byte) : (s.memWrite b i vs).done = s.done := by cases b <;> rfl
@[simp] theorem State.memWrite_errCode (s : State) (b : Buffer) (i : Nat) (vs : List Byte) : (s.memWrite b i vs).errCode = s.errCode := by cases b <;> rfl
@[simp] theorem State.memWrite_keyMask (s : State) (b : Buffer) (i : Nat) (vs : List Byte) : (s.memWrite b i vs).keyMask = s.keyMask := by cases b <;> rfl
@[simp] theorem State.memWrite_offValid (s : State) (b : Buffer) (i : Nat) (vs : List Byte) : (s.memWrite b i vs).offValid = s.offValid := by cases b <;> rfl
@[simp] theorem State.memWrite_lenValid (s : State) (b : Buffer) (i : Nat) (vs : List Byte) : (s.memWrite b i vs).lenValid = s.lenValid := by cases b <;> rfl
@[simp] theorem State.memWrite_busyWr (s : State) (b : Buffer) (i : Nat) (vs : List Byte) : (s.memWrite b i vs).busyWr = s.busyWr := by cases b <;> rfl
@[simp] theorem State.memWrite_doneIe (s : State) (b : Buffer) (i : Nat) (vs : List Byte) : (s.memWrite b i vs).doneIe = s.doneIe := by cases b <;> rfl
@[simp] theorem State.memWrite_key (s : State) (b : Buffer) (i : Nat) (vs : List Byte) : (s.memWrite b i vs).key = s.key := by cases b <;> rfl
@[simp] theorem State.memWrite_blkIn (s : State) (b : Buffer) (i : Nat) (vs : List Byte) : (s.memWrite b i vs).blkIn = s.blkIn := by cases b <;> rfl
@[simp] theorem State.memWrite_blkOut (s : State) (b : Buffer) (i : Nat) (vs : List Byte) : (s.memWrite b i vs).blkOut = s.blkOut := by cases b <;> rfl
@[simp] theorem State.memWrite_params (s : State) (b : Buffer) (i : Nat) (vs : List Byte) : (s.memWrite b i vs).params = s.params := by cases b <;> rfl
@[simp] theorem State.memWrite_tick (s : State) (b : Buffer) (i : Nat) (vs : List Byte) : (s.memWrite b i vs).tick = s.tick := by cases b <;> rfl
@[simp] theorem State.memWrite_events (s : State) (b : Buffer) (i : Nat) (vs : List Byte) : (s.memWrite b i vs).events = s.events := by cases b <;> rfl
@[simp] theorem State.memWrite_answer (s : State) (b : Buffer) (i : Nat) (vs : List Byte) : (s.memWrite b i vs).answer = s.answer := by cases b <;> rfl

/-! ### `State.putCiphertext` -/

@[simp] theorem State.putCiphertext_msgLen (s : State) (y : List Byte) : (s.putCiphertext y).msgLen = s.msgLen := rfl
@[simp] theorem State.putCiphertext_ctLen (s : State) (y : List Byte) : (s.putCiphertext y).ctLen = BitVec.ofNat 32 y.length := rfl
@[simp] theorem State.putCiphertext_carLen (s : State) (y : List Byte) : (s.putCiphertext y).carLen = s.carLen := rfl
@[simp] theorem State.putCiphertext_offset (s : State) (y : List Byte) : (s.putCiphertext y).offset = s.offset := rfl
@[simp] theorem State.putCiphertext_cmd (s : State) (y : List Byte) : (s.putCiphertext y).cmd = s.cmd := rfl
@[simp] theorem State.putCiphertext_eng (s : State) (y : List Byte) : (s.putCiphertext y).eng = s.eng := rfl
@[simp] theorem State.putCiphertext_done (s : State) (y : List Byte) : (s.putCiphertext y).done = s.done := rfl
@[simp] theorem State.putCiphertext_errCode (s : State) (y : List Byte) : (s.putCiphertext y).errCode = s.errCode := rfl
@[simp] theorem State.putCiphertext_keyMask (s : State) (y : List Byte) : (s.putCiphertext y).keyMask = s.keyMask := rfl
@[simp] theorem State.putCiphertext_offValid (s : State) (y : List Byte) : (s.putCiphertext y).offValid = s.offValid := rfl
@[simp] theorem State.putCiphertext_lenValid (s : State) (y : List Byte) : (s.putCiphertext y).lenValid = true := rfl
@[simp] theorem State.putCiphertext_busyWr (s : State) (y : List Byte) : (s.putCiphertext y).busyWr = s.busyWr := rfl
@[simp] theorem State.putCiphertext_doneIe (s : State) (y : List Byte) : (s.putCiphertext y).doneIe = s.doneIe := rfl
@[simp] theorem State.putCiphertext_key (s : State) (y : List Byte) : (s.putCiphertext y).key = s.key := rfl
@[simp] theorem State.putCiphertext_blkIn (s : State) (y : List Byte) : (s.putCiphertext y).blkIn = s.blkIn := rfl
@[simp] theorem State.putCiphertext_blkOut (s : State) (y : List Byte) : (s.putCiphertext y).blkOut = s.blkOut := rfl
@[simp] theorem State.putCiphertext_msg (s : State) (y : List Byte) : (s.putCiphertext y).msg = s.msg := rfl
@[simp] theorem State.putCiphertext_ct (s : State) (y : List Byte) : (s.putCiphertext y).ct = s.ct.writeRange 0 y := rfl
@[simp] theorem State.putCiphertext_car (s : State) (y : List Byte) : (s.putCiphertext y).car = s.car := rfl
@[simp] theorem State.putCiphertext_params (s : State) (y : List Byte) : (s.putCiphertext y).params = s.params := rfl
@[simp] theorem State.putCiphertext_tick (s : State) (y : List Byte) : (s.putCiphertext y).tick = s.tick := rfl
@[simp] theorem State.putCiphertext_events (s : State) (y : List Byte) : (s.putCiphertext y).events = s.events := rfl
@[simp] theorem State.putCiphertext_answer (s : State) (y : List Byte) : (s.putCiphertext y).answer = s.answer := rfl

/-! ### `State.putPlaintext` -/

@[simp] theorem State.putPlaintext_msgLen (s : State) (r : List Byte) : (s.putPlaintext r).msgLen = BitVec.ofNat 32 r.length := rfl
@[simp] theorem State.putPlaintext_ctLen (s : State) (r : List Byte) : (s.putPlaintext r).ctLen = s.ctLen := rfl
@[simp] theorem State.putPlaintext_carLen (s : State) (r : List Byte) : (s.putPlaintext r).carLen = s.carLen := rfl
@[simp] theorem State.putPlaintext_offset (s : State) (r : List Byte) : (s.putPlaintext r).offset = s.offset := rfl
@[simp] theorem State.putPlaintext_cmd (s : State) (r : List Byte) : (s.putPlaintext r).cmd = s.cmd := rfl
@[simp] theorem State.putPlaintext_eng (s : State) (r : List Byte) : (s.putPlaintext r).eng = s.eng := rfl
@[simp] theorem State.putPlaintext_done (s : State) (r : List Byte) : (s.putPlaintext r).done = s.done := rfl
@[simp] theorem State.putPlaintext_errCode (s : State) (r : List Byte) : (s.putPlaintext r).errCode = s.errCode := rfl
@[simp] theorem State.putPlaintext_keyMask (s : State) (r : List Byte) : (s.putPlaintext r).keyMask = s.keyMask := rfl
@[simp] theorem State.putPlaintext_offValid (s : State) (r : List Byte) : (s.putPlaintext r).offValid = s.offValid := rfl
@[simp] theorem State.putPlaintext_lenValid (s : State) (r : List Byte) : (s.putPlaintext r).lenValid = s.lenValid := rfl
@[simp] theorem State.putPlaintext_busyWr (s : State) (r : List Byte) : (s.putPlaintext r).busyWr = s.busyWr := rfl
@[simp] theorem State.putPlaintext_doneIe (s : State) (r : List Byte) : (s.putPlaintext r).doneIe = s.doneIe := rfl
@[simp] theorem State.putPlaintext_key (s : State) (r : List Byte) : (s.putPlaintext r).key = s.key := rfl
@[simp] theorem State.putPlaintext_blkIn (s : State) (r : List Byte) : (s.putPlaintext r).blkIn = s.blkIn := rfl
@[simp] theorem State.putPlaintext_blkOut (s : State) (r : List Byte) : (s.putPlaintext r).blkOut = s.blkOut := rfl
@[simp] theorem State.putPlaintext_msg (s : State) (r : List Byte) : (s.putPlaintext r).msg = s.msg.writeRange 0 r := rfl
@[simp] theorem State.putPlaintext_ct (s : State) (r : List Byte) : (s.putPlaintext r).ct = s.ct := rfl
@[simp] theorem State.putPlaintext_car (s : State) (r : List Byte) : (s.putPlaintext r).car = s.car := rfl
@[simp] theorem State.putPlaintext_params (s : State) (r : List Byte) : (s.putPlaintext r).params = s.params := rfl
@[simp] theorem State.putPlaintext_tick (s : State) (r : List Byte) : (s.putPlaintext r).tick = s.tick := rfl
@[simp] theorem State.putPlaintext_events (s : State) (r : List Byte) : (s.putPlaintext r).events = s.events := rfl
@[simp] theorem State.putPlaintext_answer (s : State) (r : List Byte) : (s.putPlaintext r).answer = s.answer := rfl

/-! ### `State.embedBits` -/

@[simp] theorem State.embedBits_msgLen (s : State) (o : Nat) (y : List Byte) : (s.embedBits o y).msgLen = s.msgLen := rfl
@[simp] theorem State.embedBits_ctLen (s : State) (o : Nat) (y : List Byte) : (s.embedBits o y).ctLen = s.ctLen := rfl
@[simp] theorem State.embedBits_carLen (s : State) (o : Nat) (y : List Byte) : (s.embedBits o y).carLen = s.carLen := rfl
@[simp] theorem State.embedBits_offset (s : State) (o : Nat) (y : List Byte) : (s.embedBits o y).offset = s.offset := rfl
@[simp] theorem State.embedBits_cmd (s : State) (o : Nat) (y : List Byte) : (s.embedBits o y).cmd = s.cmd := rfl
@[simp] theorem State.embedBits_eng (s : State) (o : Nat) (y : List Byte) : (s.embedBits o y).eng = s.eng := rfl
@[simp] theorem State.embedBits_done (s : State) (o : Nat) (y : List Byte) : (s.embedBits o y).done = s.done := rfl
@[simp] theorem State.embedBits_errCode (s : State) (o : Nat) (y : List Byte) : (s.embedBits o y).errCode = s.errCode := rfl
@[simp] theorem State.embedBits_keyMask (s : State) (o : Nat) (y : List Byte) : (s.embedBits o y).keyMask = s.keyMask := rfl
@[simp] theorem State.embedBits_offValid (s : State) (o : Nat) (y : List Byte) : (s.embedBits o y).offValid = s.offValid := rfl
@[simp] theorem State.embedBits_lenValid (s : State) (o : Nat) (y : List Byte) : (s.embedBits o y).lenValid = s.lenValid := rfl
@[simp] theorem State.embedBits_busyWr (s : State) (o : Nat) (y : List Byte) : (s.embedBits o y).busyWr = s.busyWr := rfl
@[simp] theorem State.embedBits_doneIe (s : State) (o : Nat) (y : List Byte) : (s.embedBits o y).doneIe = s.doneIe := rfl
@[simp] theorem State.embedBits_key (s : State) (o : Nat) (y : List Byte) : (s.embedBits o y).key = s.key := rfl
@[simp] theorem State.embedBits_blkIn (s : State) (o : Nat) (y : List Byte) : (s.embedBits o y).blkIn = s.blkIn := rfl
@[simp] theorem State.embedBits_blkOut (s : State) (o : Nat) (y : List Byte) : (s.embedBits o y).blkOut = s.blkOut := rfl
@[simp] theorem State.embedBits_msg (s : State) (o : Nat) (y : List Byte) : (s.embedBits o y).msg = s.msg := rfl
@[simp] theorem State.embedBits_ct (s : State) (o : Nat) (y : List Byte) : (s.embedBits o y).ct = s.ct := rfl
@[simp] theorem State.embedBits_car (s : State) (o : Nat) (y : List Byte) : (s.embedBits o y).car = s.car.writeRange o (embedBytes (s.memRead .car o (8 * y.length)) y) := rfl
@[simp] theorem State.embedBits_params (s : State) (o : Nat) (y : List Byte) : (s.embedBits o y).params = s.params := rfl
@[simp] theorem State.embedBits_tick (s : State) (o : Nat) (y : List Byte) : (s.embedBits o y).tick = s.tick := rfl
@[simp] theorem State.embedBits_events (s : State) (o : Nat) (y : List Byte) : (s.embedBits o y).events = s.events := rfl
@[simp] theorem State.embedBits_answer (s : State) (o : Nat) (y : List Byte) : (s.embedBits o y).answer = s.answer := rfl

/-! ### Buffers by name -/

@[simp] theorem State.buf_msg (s : State) : s.buf .msg = s.msg := rfl
@[simp] theorem State.buf_ct (s : State) : s.buf .ct = s.ct := rfl
@[simp] theorem State.buf_car (s : State) : s.buf .car = s.car := rfl
@[simp] theorem State.memWrite_msg (s : State) (i : Nat) (vs : List Byte) :
    (s.memWrite .msg i vs).msg = s.msg.writeRange i vs := rfl
@[simp] theorem State.memWrite_ct (s : State) (i : Nat) (vs : List Byte) :
    (s.memWrite .ct i vs).ct = s.ct.writeRange i vs := rfl
@[simp] theorem State.memWrite_car (s : State) (i : Nat) (vs : List Byte) :
    (s.memWrite .car i vs).car = s.car.writeRange i vs := rfl
@[simp] theorem State.memWrite_msg_ct (s : State) (i : Nat) (vs : List Byte) : (s.memWrite .msg i vs).ct = s.ct := rfl
@[simp] theorem State.memWrite_msg_car (s : State) (i : Nat) (vs : List Byte) : (s.memWrite .msg i vs).car = s.car := rfl
@[simp] theorem State.memWrite_ct_msg (s : State) (i : Nat) (vs : List Byte) : (s.memWrite .ct i vs).msg = s.msg := rfl
@[simp] theorem State.memWrite_ct_car (s : State) (i : Nat) (vs : List Byte) : (s.memWrite .ct i vs).car = s.car := rfl
@[simp] theorem State.memWrite_car_msg (s : State) (i : Nat) (vs : List Byte) : (s.memWrite .car i vs).msg = s.msg := rfl
@[simp] theorem State.memWrite_car_ct (s : State) (i : Nat) (vs : List Byte) : (s.memWrite .car i vs).ct = s.ct := rfl
@[simp] theorem State.memWrite_buf_same (s : State) (b : Buffer) (i : Nat) (vs : List Byte) :
    (s.memWrite b i vs).buf b = (s.buf b).writeRange i vs := by cases b <;> rfl
@[simp] theorem State.memWrite_buf_other (s : State) (b b' : Buffer) (i : Nat) (vs : List Byte) (h : b' ≠ b) :
    (s.memWrite b i vs).buf b' = s.buf b' := by cases b <;> cases b' <;> first | rfl | exact absurd rfl h

/-! ### Register groups -/

@[simp] theorem Quad.get_set_same (q : Quad) (w : Fin 4) (v : Word) : (q.set w v).get w = v := by
  match w with
  | 0 => rfl
  | 1 => rfl
  | 2 => rfl
  | 3 => rfl

@[simp] theorem Quad.get_set_other (q : Quad) (w w' : Fin 4) (v : Word) (h : w' ≠ w) :
    (q.set w v).get w' = q.get w' := by
  match w, w' with
  | 0, 0 => exact absurd rfl h
  | 0, 1 => rfl
  | 0, 2 => rfl
  | 0, 3 => rfl
  | 1, 0 => rfl
  | 1, 1 => exact absurd rfl h
  | 1, 2 => rfl
  | 1, 3 => rfl
  | 2, 0 => rfl
  | 2, 1 => rfl
  | 2, 2 => exact absurd rfl h
  | 2, 3 => rfl
  | 3, 0 => rfl
  | 3, 1 => rfl
  | 3, 2 => rfl
  | 3, 3 => exact absurd rfl h

end Sys2Proof.Machine
end

