-- ==== Sys2Proof/Laws/Memory.lean ====
section
/-! SUPPORT. The laws of buffer cells (20_memory.md R89, R90): what a read gives after a write, and that every write
keeps the canonical form. -/

namespace Sys2Proof.Machine

theorem Memory.read_write (m : Memory) (a b : Nat) (v : Byte) :
    (m.write a v).read b = if b = a then some v else m.read b := by
  induction m with
  | nil => simp [Memory.write, Memory.read]
  | cons c rest ih =>
    obtain ⟨d, w⟩ := c
    simp only [Memory.write]
    split
    · simp [Memory.read]
    · split
      · subst_vars
        simp only [Memory.read]
        split <;> rfl
      · simp only [Memory.read, ih]
        split
        · split
          · omega
          · rfl
        · rfl

theorem Memory.read_writeRange (m : Memory) (i : Nat) (vs : List Byte) (a : Nat) :
    (m.writeRange i vs).read a = if i ≤ a ∧ a < i + vs.length then vs[a - i]? else m.read a := by
  induction vs generalizing m i with
  | nil =>
    simp [Memory.writeRange]
  | cons v rest ih =>
    simp only [Memory.writeRange, ih, Memory.read_write, List.length_cons]
    by_cases h : a = i
    · subst h
      simp
    · by_cases h1 : i + 1 ≤ a ∧ a < i + 1 + rest.length
      · have h2 : i ≤ a ∧ a < i + (rest.length + 1) := by omega
        have h3 : a - i = (a - (i + 1)) + 1 := by omega
        simp only [h1, h2, and_self, if_true]
        rw [h3, List.getElem?_cons_succ]
      · have h2 : ¬ (i ≤ a ∧ a < i + (rest.length + 1)) := by omega
        simp only [h1, h2, if_false, h]

/-- Where a range write lands. -/
theorem Memory.read_writeRange_inside (m : Memory) (i : Nat) (vs : List Byte) (t : Nat) (h : t < vs.length) :
    (m.writeRange i vs).read (i + t) = some vs[t] := by
  rw [Memory.read_writeRange, if_pos (by omega), Nat.add_sub_cancel_left, List.getElem?_eq_getElem h]

/-- A range write leaves every other cell and mark alone. -/
theorem Memory.read_writeRange_outside (m : Memory) (i : Nat) (vs : List Byte) (a : Nat)
    (h : a < i ∨ i + vs.length ≤ a) : (m.writeRange i vs).read a = m.read a := by
  rw [Memory.read_writeRange, if_neg (by omega)]

theorem Memory.mem_write (m : Memory) (a : Nat) (v : Byte) (c : Host.Cell) (h : c ∈ m.write a v) :
    c = (a, v) ∨ c ∈ m := by
  induction m with
  | nil => simpa [Memory.write] using h
  | cons d rest ih =>
    simp only [Memory.write] at h
    split at h
    · simpa using h
    · split at h
      · rcases List.mem_cons.mp h with h | h
        · exact .inl h
        · exact .inr (List.mem_cons_of_mem _ h)
      · rcases List.mem_cons.mp h with h | h
        · exact .inr (h ▸ List.mem_cons_self)
        · rcases ih h with h | h
          · exact .inl h
          · exact .inr (List.mem_cons_of_mem _ h)

/-- A write keeps the canonical form. -/
theorem Memory.wf_write (m : Memory) (a : Nat) (v : Byte) (h : m.wf) : (m.write a v).wf := by
  induction m with
  | nil => simp [Memory.write, Memory.wf]
  | cons d rest ih =>
    have hd := List.pairwise_cons.mp h
    simp only [Memory.write]
    split
    · refine List.pairwise_cons.mpr ⟨fun c hc => ?_, h⟩
      rcases List.mem_cons.mp hc with rfl | hc
      · assumption
      · have := hd.1 c hc
        simp only at *
        omega
    · split
      · subst_vars
        exact List.pairwise_cons.mpr ⟨fun c hc => hd.1 c hc, hd.2⟩
      · refine List.pairwise_cons.mpr ⟨fun c hc => ?_, ih hd.2⟩
        rcases Memory.mem_write rest a v c hc with rfl | hc
        · simp only
          omega
        · exact hd.1 c hc

/-- A range write keeps the canonical form. -/
theorem Memory.wf_writeRange (m : Memory) (i : Nat) (vs : List Byte) (h : m.wf) : (m.writeRange i vs).wf := by
  induction vs generalizing m i with
  | nil => exact h
  | cons v rest ih => exact ih _ _ (Memory.wf_write m i v h)

theorem Memory.below_write (m : Memory) (a : Nat) (v : Byte) (cap : Nat) (h : m.below cap) (ha : a < cap) :
    (m.write a v).below cap := by
  intro c hc
  rcases Memory.mem_write m a v c hc with rfl | hc
  · exact ha
  · exact h c hc

/-- A range write inside the buffer keeps every entry inside the buffer. -/
theorem Memory.below_writeRange (m : Memory) (i : Nat) (vs : List Byte) (cap : Nat) (h : m.below cap)
    (hi : i + vs.length ≤ cap) : (m.writeRange i vs).below cap := by
  induction vs generalizing m i with
  | nil => exact h
  | cons v rest ih =>
    simp only [List.length_cons] at hi
    exact ih _ _ (Memory.below_write m i v cap h (by omega)) (by omega)

/-- Memory after reset has the canonical form. -/
theorem State.reset_wf (b : Buffer) : (State.reset.buf b).wf := by cases b <;> exact List.Pairwise.nil

@[simp] theorem State.memRead_length (s : State) (b : Buffer) (i n : Nat) : (s.memRead b i n).length = n := by
  simp [State.memRead]

theorem State.memRead_getElem (s : State) (b : Buffer) (i n t : Nat) (h : t < n) :
    (s.memRead b i n)[t]'(by simpa using h) = s.readByte b (i + t) := by
  simp [State.memRead]

theorem State.memRead_getD (s : State) (b : Buffer) (i n t : Nat) (h : t < n) :
    (s.memRead b i n).getD t 0 = s.readByte b (i + t) := by
  rw [List.getD_eq_getElem _ _ (by simpa using h), State.memRead_getElem s b i n t h]

/-- A WRITTEN cell reads as the byte last written there (R89). -/
theorem State.readByte_written (s : State) (b : Buffer) (i : Nat) (v : Byte) (h : (s.buf b).read i = some v) :
    s.readByte b i = v := by
  simp [State.readByte, h]

/-- Two states whose buffer cells and draw number agree read alike. -/
theorem State.memRead_congr (s u : State) (b : Buffer) (i n : Nat)
    (h : ∀ t, t < n → s.readByte b (i + t) = u.readByte b (i + t)) : s.memRead b i n = u.memRead b i n := by
  apply List.map_congr_left
  intro t ht
  exact h t (List.mem_range.mp ht)

end Sys2Proof.Machine
end

