-- ==== Sys2Proof/Laws/Bytes.lean ====
section
/-! SUPPORT. The laws of the byte functions: padding, block-wise ciphers, bit insertion and extraction, byte lanes. Each lemma
says once what a function's result is, by length and by index. -/

namespace Sys2Proof.Machine

/-! ## Padding (41_padding.md) -/

theorem padLen_pos (m : Nat) : 1 ≤ padLen m ∧ padLen m ≤ 16 := by simp only [padLen]; omega

theorem pad_length (q : List Byte) : (pad q).length = paddedLen q.length := by
  simp only [pad, padLen, paddedLen, List.length_append, List.length_replicate]
  omega

/-- Byte `a` of a padded sequence: the sequence's own, then the padding length. -/
theorem pad_getElem (q : List Byte) (a : Nat) (h : a < (pad q).length) :
    (pad q)[a] = if h' : a < q.length then q[a] else BitVec.ofNat 8 (16 - q.length % 16) := by
  simp only [pad, padLen]
  rw [List.getElem_append]
  split
  · rfl
  · simp

/-- The final byte of a sequence that has one. -/
theorem getLast?_eq_getElem_pred (q : List Byte) (h : 0 < q.length) : q.getLast? = some (q[q.length - 1]) := by
  rw [List.getLast?_eq_getElem?, List.getElem?_eq_getElem]

/-- `unpadValid` by index (R132): the final byte `ind` is the indicator. -/
theorem unpadValid_iff (q : List Byte) :
    unpadValid q = true ↔
      ∃ ind, q.getLast? = some ind ∧ 1 ≤ ind.toNat ∧ ind.toNat ≤ 16 ∧ ind.toNat ≤ q.length
        ∧ ∀ t, (ht : t < q.length) → q.length - ind.toNat ≤ t → q[t] = ind := by
  cases hl : q.getLast? with
  | none => simp [unpadValid, hl]
  | some ind =>
    simp only [unpadValid, hl, Bool.and_eq_true, decide_eq_true_eq, List.all_eq_true, beq_iff_eq, and_assoc,
      Option.some.injEq, exists_eq_left']
    refine and_congr_right fun _ => and_congr_right fun _ => and_congr_right fun hle => ?_
    constructor
    · intro h t ht hge
      apply h
      rw [List.mem_drop_iff_getElem]
      exact ⟨t - (q.length - ind.toNat), by omega, by congr 1; omega⟩
    · intro h y hy
      rw [List.mem_drop_iff_getElem] at hy
      obtain ⟨k, hk, rfl⟩ := hy
      exact h _ _ (by omega)

/-- `unpad` by length and index, where the padding is valid. -/
theorem unpad_eq_take (q : List Byte) (h : 0 < q.length) :
    unpad q = q.take (q.length - (q[q.length - 1]).toNat) := by
  simp only [unpad, getLast?_eq_getElem_pred q h]

theorem unpadValid_pos (q : List Byte) (h : unpadValid q = true) : 0 < q.length := by
  cases q with
  | nil => simp [unpadValid] at h
  | cons x rest => simp

theorem unpad_length (q : List Byte) (h : 0 < q.length) :
    (unpad q).length = q.length - (q[q.length - 1]).toNat := by
  rw [unpad_eq_take q h, List.length_take]
  omega

/-- A valid padding is at least one byte long. -/
theorem unpad_length_lt (q : List Byte) (h : unpadValid q = true) : (unpad q).length < q.length := by
  have hpos := unpadValid_pos q h
  obtain ⟨ind, hl, h1, _⟩ := (unpadValid_iff q).mp h
  rw [getLast?_eq_getElem_pred q hpos, Option.some.injEq] at hl
  rw [unpad_length q hpos, hl]
  omega

theorem unpad_getElem (q : List Byte) (h : 0 < q.length) (a : Nat) (ha : a < (unpad q).length) :
    (unpad q)[a] = q[a]'(by rw [unpad_length q h] at ha; omega) := by
  simp only [unpad_eq_take q h, List.getElem_take]

/-! ## Block-wise ciphers (42_codec.md) -/

theorem concatBlocks_length (l : List Block) : (concatBlocks l).length = 16 * l.length := by
  induction l with
  | nil => rfl
  | cons b rest ih =>
    simp only [concatBlocks, List.flatMap_cons, List.length_append, Vector.length_toList, List.length_cons] at *
    omega

theorem concatBlocks_getElem (l : List Block) (a : Nat) (h : a < (concatBlocks l).length) :
    (concatBlocks l)[a] = (l[a / 16]'(by rw [concatBlocks_length] at h; omega))[a % 16]'(Nat.mod_lt a (by decide)) := by
  induction l generalizing a with
  | nil => simp [concatBlocks] at h
  | cons b rest ih =>
    have hl : (concatBlocks (b :: rest)) = b.toList ++ concatBlocks rest := rfl
    simp only [hl]
    rw [List.getElem_append]
    by_cases h16 : a < 16
    · have h1 : a / 16 = 0 := by omega
      have h2 : a % 16 = a := by omega
      simp only [Vector.length_toList, h16, dif_pos, h1, h2, List.getElem_cons_zero, Vector.getElem_toList]
    · have h1 : a / 16 = (a - 16) / 16 + 1 := by omega
      have h2 : a % 16 = (a - 16) % 16 := by omega
      simp only [Vector.length_toList, h16, dif_neg, not_false_iff, h1, List.getElem_cons_succ]
      rw [ih (a - 16) (by rw [concatBlocks_length] at *; simp only [List.length_cons] at h; omega)]
      simp only [h2]

theorem blocks16_length (q : List Byte) : (blocks16 q).length = q.length / 16 := by simp [blocks16]

theorem blocks16_getElem (q : List Byte) (k : Nat) (h : k < (blocks16 q).length) : (blocks16 q)[k] = blockAt q k := by
  simp [blocks16]

theorem ecbEnc_length (P : Ports) (K : Block) (p : List Byte) : (ecbEnc P K p).length = 16 * (p.length / 16) := by
  rw [ecbEnc, concatBlocks_length, List.length_map, blocks16_length]

theorem ecbDec_length (P : Ports) (K : Block) (p : List Byte) : (ecbDec P K p).length = 16 * (p.length / 16) := by
  rw [ecbDec, concatBlocks_length, List.length_map, blocks16_length]

/-- Byte `a` of an enciphered sequence is byte `a mod 16` of its enciphered block. -/
theorem ecbEnc_getElem (P : Ports) (K : Block) (p : List Byte) (a : Nat) (h : a < (ecbEnc P K p).length) :
    (ecbEnc P K p)[a] = (P.encipher K (blockAt p (a / 16)))[a % 16]'(Nat.mod_lt a (by decide)) := by
  simp only [ecbEnc]
  rw [concatBlocks_getElem]
  simp only [List.getElem_map, blocks16_getElem]

/-- Byte `a` of a deciphered sequence is byte `a mod 16` of its deciphered block. -/
theorem ecbDec_getElem (P : Ports) (K : Block) (p : List Byte) (a : Nat) (h : a < (ecbDec P K p).length) :
    (ecbDec P K p)[a] = (P.decipher K (blockAt p (a / 16)))[a % 16]'(Nat.mod_lt a (by decide)) := by
  simp only [ecbDec]
  rw [concatBlocks_getElem]
  simp only [List.getElem_map, blocks16_getElem]

/-- A block of a sequence, byte by byte. -/
theorem blockAt_getElem (q : List Byte) (k i : Nat) (h : i < 16) : (blockAt q k)[i] = q.getD (16 * k + i) 0 := by
  simp [blockAt]

/-! ## Bit insertion and extraction (43_embed.md, 44_extract.md) -/

@[simp] theorem embedBytes_length (vs y : List Byte) : (embedBytes vs y).length = 8 * y.length := by simp [embedBytes]

theorem embedBytes_getElem (vs y : List Byte) (t : Nat) (h : t < (embedBytes vs y).length) :
    (embedBytes vs y)[t] = embedBit (vs.getD t 0) (y.getD (t / 8) 0) (t % 8) := by
  simp [embedBytes]

/-- Insertion keeps bits 7:1 of the carrier byte. -/
theorem embedBit_high (v p : Byte) (j b : Nat) (h1 : 1 ≤ b) (h8 : b < 8) :
    (embedBit v p j).getLsbD b = v.getLsbD b := by
  have hb : b ≠ 0 := by omega
  have h254 : (0xFE#8).getLsbD b = true := by
    have : b = 1 ∨ b = 2 ∨ b = 3 ∨ b = 4 ∨ b = 5 ∨ b = 6 ∨ b = 7 := by omega
    rcases this with h | h | h | h | h | h | h <;> subst h <;> rfl
  simp [embedBit, h254, BitVec.getLsbD_one, hb]

/-- Insertion puts the payload bit into bit 0. -/
theorem embedBit_low (v p : Byte) (j : Nat) : (embedBit v p j).getLsbD 0 = p.getLsbD j := by
  simp [embedBit]

@[simp] theorem extractBytes_length (vs : List Byte) (c : Nat) : (extractBytes vs c).length = c := by simp [extractBytes]

theorem extractBytes_getElem (vs : List Byte) (c i : Nat) (h : i < (extractBytes vs c).length) :
    (extractBytes vs c)[i] = extractByte vs i := by
  simp [extractBytes]

/-- Bit `j` of an extracted byte is bit 0 of carrier byte `8*i + j`. -/
theorem extractByte_getLsbD (vs : List Byte) (i j : Nat) (h : j < 8) :
    (extractByte vs i).getLsbD j = (vs.getD (8 * i + j) 0).getLsbD 0 := by
  have hr : List.range 8 = [0, 1, 2, 3, 4, 5, 6, 7] := rfl
  have hj : j = 0 ∨ j = 1 ∨ j = 2 ∨ j = 3 ∨ j = 4 ∨ j = 5 ∨ j = 6 ∨ j = 7 := by omega
  simp only [extractByte, hr, List.foldl_cons, List.foldl_nil]
  rcases hj with h | h | h | h | h | h | h | h <;> subst h <;> simp

/-! ## Byte lanes (10_state.md R52, R55; 20_memory.md R74) -/

/-- The lanes of a word made of four bytes are those bytes. -/
theorem lane_wordOf (b0 b1 b2 b3 : Byte) :
    lane (wordOf b0 b1 b2 b3) 0 = b0 ∧ lane (wordOf b0 b1 b2 b3) 1 = b1
      ∧ lane (wordOf b0 b1 b2 b3) 2 = b2 ∧ lane (wordOf b0 b1 b2 b3) 3 = b3 := by
  refine ⟨?_, ?_, ?_, ?_⟩ <;>
  · apply BitVec.eq_of_getLsbD_eq
    intro i hi
    have hi' : i = 0 ∨ i = 1 ∨ i = 2 ∨ i = 3 ∨ i = 4 ∨ i = 5 ∨ i = 6 ∨ i = 7 := by omega
    rcases hi' with h | h | h | h | h | h | h | h <;> subst h <;> simp [lane, wordOf]

end Sys2Proof.Machine
end

