-- ==== Sys2Proof/Laws/Commands.lean ====
section
/-! SUPPORT. What the completion step can do (30_encoding.md R109 to R112) and, command by command, what a command that
succeeds writes. Later proofs cite these and unfold no meaning. -/

namespace Sys2Proof.Machine

open Sys2Proof

/-! ## Completion -/

theorem complete_next (code : ErrCode) (s : State) (h : forbidden code = false) :
    complete code s = .next (s.completed code) := by simp [complete, h]

/-- Everything a completion step can answer. -/
theorem finish_next (s t : State) (r : Except ErrCode State) (h : finish s r = .next t) :
    (∃ u, r = .ok u ∧ t = u.completed .ok) ∨
      (∃ code, r = .error code ∧ forbidden code = false ∧ t = s.completed code) := by
  cases r with
  | ok u =>
    refine .inl ⟨u, rfl, ?_⟩
    have : finish s (.ok u) = .next (u.completed .ok) := rfl
    rw [this] at h
    exact (Host.Outcome.next.inj h).symm
  | error code =>
    refine .inr ⟨code, rfl, ?_⟩
    simp only [finish, complete] at h
    split at h
    · cases h
    · exact ⟨by simpa using ‹¬ forbidden code = true›, (Host.Outcome.next.inj h).symm⟩

theorem finish_ok (s u : State) : finish s (.ok u) = .next (u.completed .ok) := rfl

theorem finish_error (s : State) (code : ErrCode) (h : forbidden code = false) :
    finish s (.error code) = .next (s.completed code) := complete_next code s h

/-! ## One result per command -/

/-- What a command computes from the state it starts in, at the configured ports. -/
def commandResult (i : Instr) (s : State) : Except ErrCode State :=
  match i with
  | .nop => .ok s
  | .encBlock => encBlockWith Config.ports s
  | .decBlock => decBlockWith Config.ports s
  | .pad => padResult s
  | .unpad => unpadResult s
  | .encrypt => encryptWith Config.ports s
  | .decrypt => decryptWith Config.ports s
  | .embed => embedResult s
  | .extract => extractResult s
  | .hide => hideWith Config.ports s
  | .reveal => revealWith Config.ports s

theorem exec_eq_finish (i : Instr) (s : State) : exec i s = finish s (commandResult i s) := by cases i <;> rfl

theorem placeCheck_none (c S o : Nat) (h : placeCheck c S o = none) : 8 * c ≤ S ∧ o + 8 * c ≤ S := by
  simp only [placeCheck] at h
  split at h
  · cases h
  · split at h
    · cases h
    · omega

theorem placeCheck_some (c S o : Nat) (code : ErrCode) (h : placeCheck c S o = some code) :
    (code = .carrierTooSmall ∧ 8 * c > S) ∨ (code = .offsetOutOfRange ∧ 8 * c ≤ S ∧ o > S - 8 * c) := by
  simp only [placeCheck] at h
  split at h
  · exact .inl ⟨(Option.some.inj h).symm, ‹_›⟩
  · split at h
    · exact .inr ⟨(Option.some.inj h).symm, by omega, ‹_›⟩
    · cases h

/-- No command raises a code the core never writes (R202, R207). -/
theorem commandResult_error (i : Instr) (s : State) (code : ErrCode) (h : commandResult i s = .error code) :
    forbidden code = false := by
  have hp : ∀ c S o code, placeCheck c S o = some code → forbidden code = false := by
    intro c S o code hc
    rcases placeCheck_some c S o code hc with ⟨rfl, _⟩ | ⟨rfl, _⟩ <;> rfl
  cases i <;>
    simp only [commandResult, encBlockWith, decBlockWith, padResult, unpadResult, encryptWith, decryptWith,
      embedResult, extractResult, hideWith, revealWith] at h <;>
    (repeat' split at h) <;>
    first
      | (cases h; done)
      | (cases h; rfl)
      | (cases h; exact hp _ _ _ _ ‹_›)

/-! ## What a successful command writes -/

theorem encBlockWith_ok (P : Ports) (s u : State) (h : encBlockWith P s = .ok u) :
    s.keyLoaded = true ∧ u = s.putBlkOut (P.encipher s.keyBytes s.blkinBytes) := by
  simp only [encBlockWith] at h
  split at h
  · cases h
  · exact ⟨by simpa using ‹¬ (!s.keyLoaded) = true›, (Except.ok.inj h).symm⟩

theorem decBlockWith_ok (P : Ports) (s u : State) (h : decBlockWith P s = .ok u) :
    s.keyLoaded = true ∧ u = s.putBlkOut (P.decipher s.keyBytes s.blkinBytes) := by
  simp only [decBlockWith] at h
  split at h
  · cases h
  · exact ⟨by simpa using ‹¬ (!s.keyLoaded) = true›, (Except.ok.inj h).symm⟩

theorem padResult_ok (s u : State) (h : padResult s = .ok u) :
    s.msgLenTooBig = false ∧ u = s.putCiphertext (pad (s.memRead .msg 0 s.msgLen.toNat)) := by
  simp only [padResult] at h
  split at h
  · cases h
  · exact ⟨by simpa using ‹¬ s.msgLenTooBig = true›, (Except.ok.inj h).symm⟩

theorem unpadResult_ok (s u : State) (h : unpadResult s = .ok u) :
    s.ctLenTooBig = false ∧ unpadValid (s.memRead .ct 0 s.ctLen.toNat) = true
      ∧ u = s.putPlaintext (unpad (s.memRead .ct 0 s.ctLen.toNat)) := by
  simp only [unpadResult] at h
  split at h
  · cases h
  · split at h
    · cases h
    · exact ⟨by simpa using ‹¬ s.ctLenTooBig = true›, by simpa using ‹¬ (!unpadValid _) = true›,
        (Except.ok.inj h).symm⟩

theorem encryptWith_ok (P : Ports) (s u : State) (h : encryptWith P s = .ok u) :
    s.keyLoaded = true ∧ s.msgLenTooBig = false
      ∧ u = s.putCiphertext (ecbEnc P s.keyBytes (pad (s.memRead .msg 0 s.msgLen.toNat))) := by
  simp only [encryptWith] at h
  split at h
  · cases h
  · split at h
    · cases h
    · exact ⟨by simpa using ‹¬ (!s.keyLoaded) = true›, by simpa using ‹¬ s.msgLenTooBig = true›,
        (Except.ok.inj h).symm⟩

theorem decryptWith_ok (P : Ports) (s u : State) (h : decryptWith P s = .ok u) :
    s.keyLoaded = true ∧ s.ctLenTooBig = false ∧ s.ctLenNotBlocks = false
      ∧ unpadValid (ecbDec P s.keyBytes (s.memRead .ct 0 s.ctLen.toNat)) = true
      ∧ u = s.putPlaintext (unpad (ecbDec P s.keyBytes (s.memRead .ct 0 s.ctLen.toNat))) := by
  simp only [decryptWith] at h
  split at h
  · cases h
  · split at h
    · cases h
    · split at h
      · cases h
      · split at h
        · cases h
        · exact ⟨by simpa using ‹¬ (!s.keyLoaded) = true›, by simpa using ‹¬ s.ctLenTooBig = true›,
            by simpa using ‹¬ s.ctLenNotBlocks = true›, by simpa using ‹¬ (!unpadValid _) = true›,
            (Except.ok.inj h).symm⟩

theorem embedResult_ok (s u : State) (h : embedResult s = .ok u) :
    s.placed = true ∧ s.ctLenTooBig = false ∧ s.carLenTooBig = false
      ∧ placeCheck s.ctLen.toNat s.carLen.toNat s.offset.toNat = none
      ∧ u = s.embedBits s.offset.toNat (s.memRead .ct 0 s.ctLen.toNat) := by
  simp only [embedResult] at h
  split at h
  · cases h
  · split at h
    · cases h
    · rename_i hl
      simp only [Bool.or_eq_true, not_or, Bool.not_eq_true] at hl
      split at h
      · cases h
      · exact ⟨by simpa using ‹¬ (!s.placed) = true›, hl.1, hl.2, ‹_›, (Except.ok.inj h).symm⟩

theorem extractResult_ok (s u : State) (h : extractResult s = .ok u) :
    s.placed = true ∧ s.ctLenTooBig = false ∧ s.carLenTooBig = false
      ∧ placeCheck s.ctLen.toNat s.carLen.toNat s.offset.toNat = none
      ∧ u = s.memWrite .ct 0 (s.extractBits s.offset.toNat s.ctLen.toNat) := by
  simp only [extractResult] at h
  split at h
  · cases h
  · split at h
    · cases h
    · rename_i hl
      simp only [Bool.or_eq_true, not_or, Bool.not_eq_true] at hl
      split at h
      · cases h
      · exact ⟨by simpa using ‹¬ (!s.placed) = true›, hl.1, hl.2, ‹_›, (Except.ok.inj h).symm⟩

/-- The ciphertext HIDE computes. -/
def hideCiphertext (P : Ports) (s : State) : List Byte :=
  ecbEnc P s.keyBytes (pad (s.memRead .msg 0 s.msgLen.toNat))

/-- The offset HIDE draws. -/
def hideOffset (P : Ports) (s : State) : Nat := drawOffset P s.tick (s.carLen.toNat - 8 * paddedLen s.msgLen.toNat)

theorem hideWith_ok (P : Ports) (s u : State) (h : hideWith P s = .ok u) :
    s.keyLoaded = true ∧ s.msgLenTooBig = false ∧ s.carLenTooBig = false
      ∧ 8 * paddedLen s.msgLen.toNat ≤ s.carLen.toNat
      ∧ u = ((s.putCiphertext (hideCiphertext P s)).writeOffset (BitVec.ofNat 32 (hideOffset P s))).embedBits
          (hideOffset P s) (hideCiphertext P s) := by
  simp only [hideWith] at h
  split at h
  · cases h
  · split at h
    · cases h
    · rename_i hl
      simp only [Bool.or_eq_true, not_or, Bool.not_eq_true] at hl
      split at h
      · cases h
      · exact ⟨by simpa using ‹¬ (!s.keyLoaded) = true›, hl.1, hl.2, by omega, (Except.ok.inj h).symm⟩

theorem revealWith_ok (P : Ports) (s u : State) (h : revealWith P s = .ok u) :
    s.keyLoaded = true ∧ s.placed = true ∧ s.ctLenTooBig = false ∧ s.carLenTooBig = false
      ∧ s.ctLenNotBlocks = false ∧ placeCheck s.ctLen.toNat s.carLen.toNat s.offset.toNat = none
      ∧ unpadValid (ecbDec P s.keyBytes (s.extractBits s.offset.toNat s.ctLen.toNat)) = true
      ∧ u = (s.memWrite .ct 0 (s.extractBits s.offset.toNat s.ctLen.toNat)).putPlaintext
          (unpad (ecbDec P s.keyBytes (s.extractBits s.offset.toNat s.ctLen.toNat))) := by
  simp only [revealWith] at h
  split at h
  · cases h
  · split at h
    · cases h
    · split at h
      · cases h
      · rename_i hl
        simp only [Bool.or_eq_true, not_or, Bool.not_eq_true] at hl
        split at h
        · cases h
        · split at h
          · cases h
          · split at h
            · cases h
            · exact ⟨by simpa using ‹¬ (!s.keyLoaded) = true›, by simpa using ‹¬ (!s.placed) = true›, hl.1, hl.2,
                by simpa using ‹¬ s.ctLenNotBlocks = true›, ‹_›, by simpa using ‹¬ (!unpadValid _) = true›,
                (Except.ok.inj h).symm⟩

/-! ## Lengths and indices in bounds (20_memory.md R92) -/

theorem bufCap_bounds (p : Params) : 16 ≤ bufCap p ∧ bufCap p ≤ 65536 ∧ bufCap p % 16 = 0 := by
  have := p.nblkPred.isLt
  simp only [bufCap, nblk]
  omega

theorem carCap_bounds (p : Params) : 4 ≤ carCap p ∧ carCap p ≤ 2147483648 ∧ carCap p % 4 = 0 := by
  have := p.carWordsPred.isLt
  simp only [carCap]
  omega

theorem msgLenTooBig_false (s : State) : s.msgLenTooBig = false ↔ s.msgLen.toNat ≤ bufCap s.params - 1 := by
  simp [State.msgLenTooBig]

theorem ctLenTooBig_false (s : State) : s.ctLenTooBig = false ↔ s.ctLen.toNat ≤ bufCap s.params := by
  simp [State.ctLenTooBig]

theorem carLenTooBig_false (s : State) : s.carLenTooBig = false ↔ s.carLen.toNat ≤ carCap s.params := by
  simp [State.carLenTooBig]

theorem keyLoaded_true (s : State) : s.keyLoaded = true ↔ s.keyMask = 0xF#4 := by simp [State.keyLoaded]

theorem placed_true (s : State) : s.placed = true ↔ s.offValid = true ∧ s.lenValid = true := by simp [State.placed]

theorem ctLenNotBlocks_false (s : State) : s.ctLenNotBlocks = false ↔ s.ctLen.toNat ≠ 0 ∧ s.ctLen.toNat % 16 = 0 := by
  simp [State.ctLenNotBlocks]

/-- A padded message fits CT (R9, R92). -/
theorem paddedLen_le (p : Params) (m : Nat) (h : m ≤ bufCap p - 1) : paddedLen m ≤ bufCap p ∧ m < paddedLen m := by
  have := bufCap_bounds p
  simp only [paddedLen]
  omega

theorem paddedLen_mod (m : Nat) : paddedLen m % 16 = 0 := by simp only [paddedLen]; omega

@[simp] theorem hideCiphertext_length (P : Ports) (s : State) : (hideCiphertext P s).length = paddedLen s.msgLen.toNat := by
  rw [hideCiphertext, ecbEnc_length, pad_length, State.memRead_length]
  have := paddedLen_mod s.msgLen.toNat
  omega

/-- The drawn offset fits (R153). -/
theorem drawOffset_le (P : Ports) (n B : Nat) : drawOffset P n B ≤ B := by
  simp only [drawOffset]
  split
  · omega
  · have := (P.rng n (B - 1)).isLt
    omega

@[simp] theorem extractBits_length (s : State) (o c : Nat) : (s.extractBits o c).length = c := by
  simp [State.extractBits]

/-! ## Bit insertion and extraction in the carrier (R150, R165) -/

/-- Where `embedBits` writes: bit 0 of the carrier byte becomes the payload bit. -/
theorem embedBits_inside (s : State) (o : Nat) (y : List Byte) (i j : Nat) (hi : i < y.length) (hj : j < 8) :
    (s.embedBits o y).car.read (o + 8 * i + j) = some (embedBit (s.readByte .car (o + 8 * i + j)) y[i] j) := by
  have h1 : (8 * i + j) / 8 = i := by omega
  have h2 : (8 * i + j) % 8 = j := by omega
  rw [State.embedBits_car, Nat.add_assoc, Memory.read_writeRange_inside _ _ _ (8 * i + j) (by simp; omega),
    embedBytes_getElem, State.memRead_getD _ _ _ _ _ (by omega), h1, h2, List.getD_eq_getElem _ _ hi]

/-- `embedBits` leaves every other carrier cell alone. -/
theorem embedBits_outside (s : State) (o : Nat) (y : List Byte) (a : Nat) (h : a < o ∨ o + 8 * y.length ≤ a) :
    (s.embedBits o y).car.read a = s.car.read a := by
  rw [State.embedBits_car]
  exact Memory.read_writeRange_outside _ _ _ _ (by simpa using h)

/-- Bit `j` of payload byte `i` is bit 0 of its carrier byte. -/
theorem extractBits_bit (s : State) (o c i j : Nat) (hi : i < (s.extractBits o c).length) (hj : j < 8) :
    ((s.extractBits o c)[i]).getLsbD j = (s.readByte .car (o + 8 * i + j)).getLsbD 0 := by
  have hc : i < c := by rwa [extractBits_length] at hi
  simp only [State.extractBits]
  rw [extractBytes_getElem, extractByte_getLsbD _ _ _ hj, State.memRead_getD _ _ _ _ _ (by omega), Nat.add_assoc]

/-! ## What a command that succeeds may write (R103) -/

/-- What no command writes, and which command may write each result. -/
theorem commandResult_frame (i : Instr) (s u : State) (h : commandResult i s = .ok u) :
    u.carLen = s.carLen ∧ u.cmd = s.cmd ∧ u.keyMask = s.keyMask ∧ u.busyWr = s.busyWr ∧ u.doneIe = s.doneIe
      ∧ u.key = s.key ∧ u.blkIn = s.blkIn ∧ u.params = s.params ∧ u.events = s.events ∧ u.answer = s.answer
      ∧ u.tick = s.tick
      ∧ (u.msgLen ≠ s.msgLen ∨ u.msg ≠ s.msg → i = .unpad ∨ i = .decrypt ∨ i = .reveal)
      ∧ (u.ctLen ≠ s.ctLen ∨ u.lenValid ≠ s.lenValid → (i = .pad ∨ i = .encrypt ∨ i = .hide) ∧ u.lenValid = true)
      ∧ (u.offset ≠ s.offset ∨ u.offValid ≠ s.offValid → i = .hide ∧ u.offValid = true)
      ∧ (u.blkOut ≠ s.blkOut → i = .encBlock ∨ i = .decBlock)
      ∧ (u.ct ≠ s.ct → i = .pad ∨ i = .encrypt ∨ i = .hide ∨ i = .extract ∨ i = .reveal)
      ∧ (u.car ≠ s.car → i = .embed ∨ i = .hide) := by
  cases i <;> simp only [commandResult] at h
  · cases h; simp
  · rw [(encBlockWith_ok _ _ _ h).2]; simp
  · rw [(decBlockWith_ok _ _ _ h).2]; simp
  · rw [(padResult_ok _ _ h).2]; simp
  · rw [(unpadResult_ok _ _ h).2.2]; simp
  · rw [(encryptWith_ok _ _ _ h).2.2]; simp
  · rw [(decryptWith_ok _ _ _ h).2.2.2.2]; simp
  · rw [(embedResult_ok _ _ h).2.2.2.2]; simp
  · rw [(extractResult_ok _ _ h).2.2.2.2]; simp
  · rw [(hideWith_ok _ _ _ h).2.2.2.2]; simp
  · rw [(revealWith_ok _ _ _ h).2.2.2.2.2.2.2]; simp

end Sys2Proof.Machine
end

