-- ==== Sys2Proof/Laws/Bus.lean ====
section
/-! SUPPORT. The laws of the slave interface (20_memory.md R71, 45_control.md R181): which address names what, and what one
event and the engine's turn do. -/

namespace Sys2Proof.Machine

open Sys2Proof.Safety

/-- The step at a pending host access performs it and nothing else. -/
theorem step_withAccess (s : State) (h : HostAccess) : step (withAccess s h) = .next (hostAccess s h) := rfl

/-- What a step can be, by the first pending event. -/
theorem step_cases (s : State) :
    (s.events = [] ∧ step s = engineStep s)
      ∨ (∃ rest, s.events = .engine :: rest ∧ step s = engineStep { s with events := rest })
      ∨ (∃ rest, s.events = .rst :: rest ∧ step s = .next (State.resetStep { s with events := rest }))
      ∨ (∃ h rest, s.events = .access h :: rest ∧ step s = .next (hostAccess { s with events := rest } h)) := by
  rcases hev : s.events with _ | ⟨e, rest⟩
  · exact .inl ⟨rfl, by simp [step, hev]⟩
  · cases e with
    | engine => exact .inr (.inl ⟨rest, rfl, by simp [step, hev, stepEvent]⟩)
    | rst => exact .inr (.inr (.inl ⟨rest, rfl, by simp [step, hev, stepEvent]⟩))
    | access h => exact .inr (.inr (.inr ⟨h, rest, rfl, by simp [step, hev, stepEvent]⟩))

theorem targetOf_reg (p : Params) (a : Word) (h : a.toNat < 0x100) : targetOf p a = .reg a.toNat := by
  simp [targetOf, regEnd, h]

theorem windowAddr_toNat (p : Params) (b : Buffer) (i : Nat) (h : i < capacity p b) :
    (windowAddr b i).toNat = windowBase b + i := by
  have h1 := p.nblkPred.isLt
  have h2 := p.carWordsPred.isLt
  cases b <;> simp only [capacity, bufCap, nblk, carCap] at h <;>
    simp only [windowAddr, windowBase, BitVec.toNat_ofNat] <;> omega

/-- The regions do not overlap (R71): a window's address names its own cell. -/
theorem targetOf_windowAddr (p : Params) (b : Buffer) (i : Nat) (h : i < capacity p b) :
    targetOf p (windowAddr b i) = .window b i := by
  have ha := windowAddr_toNat p b i h
  have h1 := p.nblkPred.isLt
  have h2 := p.carWordsPred.isLt
  cases b <;> simp only [capacity, bufCap, nblk, carCap] at h <;>
    simp only [windowBase] at ha <;>
    simp only [targetOf, ha, inWindow, windowBase, regEnd, capacity, bufCap, nblk, carCap, Bool.and_eq_true, decide_eq_true_eq]
  · rw [if_neg (by omega), if_pos (by omega)]
    rw [Nat.add_sub_cancel_left]
  · rw [if_neg (by omega), if_neg (by omega), if_pos (by omega)]
    rw [Nat.add_sub_cancel_left]
  · rw [if_neg (by omega), if_neg (by omega), if_neg (by omega), if_pos (by omega)]
    rw [Nat.add_sub_cancel_left]

/-- A host read changes nothing but the answer and the draw counter (R80). -/
theorem hostRead_frame (s : State) (a : Word) (n : AccessSize) :
    hostRead s a n = { s with answer := (hostRead s a n).answer, tick := s.tick + 1 } := rfl

/-- Everything a host access can do to the core: nothing (a read, a bus error), a dropped write, a store in a window, or a
write of a register by an aligned word. -/
theorem hostAccess_cases (s : State) (h : HostAccess) :
    (∃ an tk, hostAccess s h = { s with answer := an, tick := tk })
      ∨ (∃ an, hostAccess s h = { s.dropWrite with answer := an })
      ∨ (∃ an b i vs, hostAccess s h = { s.memWrite b i vs with answer := an })
      ∨ (∃ an, ∃ off : Fin 256, ∃ v, h = .write (BitVec.ofNat 32 off.val) .word v ∧ off.val % 4 = 0
          ∧ (s.eng = .idle ∨ writableBusy (regAt off.val) = true)
          ∧ hostAccess s h = { writeReg s (regAt off.val) v with answer := an }) := by
  cases h with
  | read a n => exact .inl ⟨_, _, rfl⟩
  | write a n v =>
    simp only [hostAccess, hostWrite]
    cases hc : hostCheck s.params a n
    · exact .inl ⟨_, s.tick, rfl⟩
    · simp only [if_true, writeEffect]
      cases htgt : targetOf s.params a with
      | reg off =>
        simp only [hostCheck, htgt, Bool.and_eq_true, beq_iff_eq] at hc
        have hoff : a.toNat < 256 ∧ a.toNat = off := by
          simp only [targetOf] at htgt
          split_ifs at htgt
          cases htgt
          exact ⟨‹_›, rfl⟩
        simp only
        cases hb : (s.busy && !writableBusy (regAt off))
        · refine .inr (.inr (.inr ⟨_, ⟨off, by omega⟩, v, ?_, by simp only; omega, ?_, rfl⟩))
          · obtain ⟨rfl, _⟩ := hc
            congr 1
            apply BitVec.eq_of_toNat_eq
            simp
            omega
          · simp only
            cases he : s.eng
            · exact .inl rfl
            · exact .inr (by simpa [State.busy, he] using hb)
        · exact .inr (.inl ⟨_, rfl⟩)
      | window b i =>
        simp only
        cases s.busy
        · exact .inr (.inr (.inl ⟨_, b, i, _, rfl⟩))
        · exact .inr (.inl ⟨_, rfl⟩)
      | unmapped => exact .inl ⟨_, s.tick, rfl⟩

/-! ## The engine's turn -/

/-- The step at the engine's turn is the engine's step (R109). -/
theorem step_engineTurn (s : State) (rest : List Event) (h : EngineTurn s rest) :
    step s = engineStep { s with events := rest } := by
  rcases h with ⟨h, rfl⟩ | h
  · have hs : { s with events := ([] : List Event) } = s := by rw [← h]
    simp [step, h, hs]
  · simp [step, h, stepEvent]

/-- Everything the engine's step can be while BUSY: the completion step of the decoded command, or of an ILLEGAL word. -/
theorem engineStep_busy (s : State) (hb : s.eng = .busy) :
    (∃ i, decode s.cmd = .ok i ∧ engineStep s = finish s (commandResult i s))
      ∨ ((∃ e, decode s.cmd = .error e) ∧ engineStep s = .next (s.completed .illegalCommand)) := by
  rcases hd : decode s.cmd with e | i
  · exact .inr ⟨⟨e, rfl⟩, by simp [engineStep, hb, hd, complete, forbidden]⟩
  · exact .inl ⟨i, rfl, by simp [engineStep, hb, hd, exec_eq_finish]⟩

end Sys2Proof.Machine
end

