-- ==== Sys2Proof/Laws/PerInstr.lean ====
section
/-! SUPPORT. The statements made instruction by instruction. -/

namespace Sys2Proof.Laws

/-- A command's word is well formed: RSV is 0 and OP is its operation number, at most 0xA (30_encoding.md R100, R103). -/
def CommandWord.Statement (i : Instr) : Prop :=
  i.wf = true ∧ wfCommandWord (encode i) = true ∧ commandOf (opField (encode i)) = some i

theorem CommandWord.nop : CommandWord.Statement .nop := ⟨rfl, by decide, by decide⟩
theorem CommandWord.encBlock : CommandWord.Statement .encBlock := ⟨rfl, by decide, by decide⟩
theorem CommandWord.decBlock : CommandWord.Statement .decBlock := ⟨rfl, by decide, by decide⟩
theorem CommandWord.pad : CommandWord.Statement .pad := ⟨rfl, by decide, by decide⟩
theorem CommandWord.unpad : CommandWord.Statement .unpad := ⟨rfl, by decide, by decide⟩
theorem CommandWord.encrypt : CommandWord.Statement .encrypt := ⟨rfl, by decide, by decide⟩
theorem CommandWord.decrypt : CommandWord.Statement .decrypt := ⟨rfl, by decide, by decide⟩
theorem CommandWord.embed : CommandWord.Statement .embed := ⟨rfl, by decide, by decide⟩
theorem CommandWord.extract : CommandWord.Statement .extract := ⟨rfl, by decide, by decide⟩
theorem CommandWord.hide : CommandWord.Statement .hide := ⟨rfl, by decide, by decide⟩
theorem CommandWord.reveal : CommandWord.Statement .reveal := ⟨rfl, by decide, by decide⟩

end Sys2Proof.Laws
end

