-- ==== Sys2Proof/Tests/Slice0.lean ====
section
/-! SUPPORT. Tests and witnesses. Expected values come from spec/: the encodings of 30_encoding.md R103 and the worked
vectors of 95_test_vectors.md, named in each docstring. The witnesses show, for each obligation with hypotheses or clauses, a
concrete state that meets them. -/

namespace Sys2Proof.Tests

open Sys2Proof Sys2Proof.Machine Sys2Proof.Safety

/-! ## Well-formedness: each check refuses an ill-formed word (R100, R101, R104) -/

theorem test_reservedBitsZero_refuses : reservedBitsZero 0x00000010 = false ∧ reservedBitsZero 0x80000000 = false := by decide
theorem test_opAssigned_refuses : opAssigned 0x0000000B = false ∧ opAssigned 0x0000000F = false := by decide
theorem test_wfCommandWord_refuses :
    wfCommandWord 0x00000011 = false ∧ wfCommandWord 0x0000000B = false ∧ wfCommandWord 0x0000000A = true := by decide
theorem test_wf_command : Instr.wf .reveal = true := by decide

/-! ## Decoding: OP in bits 3:0, zeros above, written out from R103 -/

theorem test_decode_nop : decode 0b00000000000000000000000000000000#32 = .ok .nop := by decide
theorem test_decode_encBlock : decode 0b00000000000000000000000000000001#32 = .ok .encBlock := by decide
theorem test_decode_decBlock : decode 0b00000000000000000000000000000010#32 = .ok .decBlock := by decide
theorem test_decode_pad : decode 0b00000000000000000000000000000011#32 = .ok .pad := by decide
theorem test_decode_unpad : decode 0b00000000000000000000000000000100#32 = .ok .unpad := by decide
theorem test_decode_encrypt : decode 0b00000000000000000000000000000101#32 = .ok .encrypt := by decide
theorem test_decode_decrypt : decode 0b00000000000000000000000000000110#32 = .ok .decrypt := by decide
theorem test_decode_embed : decode 0b00000000000000000000000000000111#32 = .ok .embed := by decide
theorem test_decode_extract : decode 0b00000000000000000000000000001000#32 = .ok .extract := by decide
theorem test_decode_hide : decode 0b00000000000000000000000000001001#32 = .ok .hide := by decide
theorem test_decode_reveal : decode 0b00000000000000000000000000001010#32 = .ok .reveal := by decide
theorem test_decode_illegal :
    decode 0b00000000000000000000000000001011#32 = .error .reservedOp
      ∧ decode 0b00000000000000000000000000010001#32 = .error .reservedBits
      ∧ decode 0b10000000000000000000000000000000#32 = .error .reservedBits := by decide
theorem test_decodeTableWord : decodeTableWord 32 0xA = some .reveal ∧ decodeTableWord 8 0x7 = some .embed := by decide

/-! ## States for the tests (95_test_vectors.md section 1) -/

/-- The test cipher TC, and an RNG port that answers `r`. -/
def tc (r : Nat) : Ports where
  encipher K B := Vector.ofFn (fun i : Fin 16 => B[i] + K[i])
  decipher K B := Vector.ofFn (fun i : Fin 16 => B[i] - K[i])
  rng _ b := Fin.ofNat (b + 1) r

/-- After reset, with NBLK = 64 and CAR_CAP = 4096. -/
def s0 : State := { State.reset with params := ⟨63, 1023⟩ }

/-- Key K = 00 01 .. 0F loaded. -/
def sK : State :=
  { s0 with key := { w0 := 0x03020100, w1 := 0x07060504, w2 := 0x0B0A0908, w3 := 0x0F0E0D0C }, keyMask := 0xF }

/-- The cells `i ..` WRITTEN with the given bytes. -/
def cells (vs : List Byte) : Memory := Memory.writeRange [] 0 vs

/-- "secret message" in ASCII. -/
def secret : List Byte := [0x73, 0x65, 0x63, 0x72, 0x65, 0x74, 0x20, 0x6D, 0x65, 0x73, 0x73, 0x61, 0x67, 0x65]

/-- Its ciphertext under TC and K (V-L2-C1). -/
def secretCt : List Byte :=
  [0x73, 0x66, 0x65, 0x75, 0x69, 0x79, 0x26, 0x74, 0x6D, 0x7C, 0x7D, 0x6C, 0x73, 0x72, 0x10, 0x11]

/-- V-L2-E1 before EMBED. -/
def sE : State :=
  { s0 with ct := cells [0xA5], ctLen := 1, lenValid := true, offset := 0, offValid := true, carLen := 8
            car := cells (List.replicate 8 0xFF) }

/-- The next state of an outcome. -/
def after (o : Host.Outcome State Fault Refusal) : Option State :=
  match o with
  | .next t => some t
  | .fault _ => none
  | .refused _ => none

/-- The error code a command completes with. -/
def code (o : Host.Outcome State Fault Refusal) : Option ErrCode := (after o).map (fun t => t.errCode)

/-- The state a host write leaves. -/
def wr (s : State) (a : Word) (n : AccessSize) (v : Word) : State := hostAccess s (.write a n v)

/-! ## The commands -/

/-- R180's example. -/
theorem test_nop : (after (execNop { s0 with eng := .busy })).map statusWord = some 0x00000002 := by decide

/-- V-L2-B1. -/
theorem test_encBlock :
    (after (finish sK (encBlockWith (tc 0) { sK with blkIn := ⟨0x10101010, 0x10101010, 0x10101010, 0x10101010⟩ }))).map
      (fun t => (t.blkOut, statusWord t))
    = some (⟨0x13121110, 0x17161514, 0x1B1A1918, 0x1F1E1D1C⟩, 0x000F0002) := by decide +kernel

/-- V-L2-B2. -/
theorem test_decBlock :
    (after (finish sK (decBlockWith (tc 0) { sK with blkIn := ⟨0x10101010, 0x10101010, 0x10101010, 0x10101010⟩ }))).map
      (fun t => (t.blkOut, statusWord t))
    = some (⟨0x0D0E0F10, 0x090A0B0C, 0x05060708, 0x01020304⟩, 0x000F0002) := by decide +kernel

/-- V-L2-B4, V-L2-B5. -/
theorem test_block_without_key :
    (after (execEncBlock s0)).map statusWord = some 0x00000102
      ∧ (after (execDecBlock { s0 with keyMask := 0x7 })).map statusWord = some 0x00070102 := by decide

/-- V-L2-P1. -/
theorem test_pad :
    (after (execPad { s0 with msg := cells secret, msgLen := 14 })).map (fun t => (t.ct, t.ctLen, statusWord t))
    = some (cells (secret ++ [2, 2]), 16, 0x00200002) := by decide +kernel

/-- V-L2-P2, V-L2-P6. -/
theorem test_pad_edges :
    (after (execPad s0)).map (fun t => (t.ct, t.ctLen)) = some (cells (List.replicate 16 0x10), 16)
      ∧ code (execPad { s0 with msgLen := 1024 }) = some .lengthOutOfRange := by decide +kernel

/-- V-L2-P9. -/
theorem test_unpad :
    (after (execUnpad { s0 with ct := cells (secret ++ [2, 2]), ctLen := 16, lenValid := true })).map
      (fun t => (t.msg, t.msgLen, statusWord t))
    = some (cells secret, 14, 0x00200002) := by decide +kernel

/-- V-L2-P10, P14, P15, P17. -/
theorem test_unpad_edges :
    code (execUnpad s0) = some .invalidPadding
      ∧ (after (execUnpad { s0 with ct := cells [3, 3, 3], ctLen := 3, msgLen := 9 })).map (fun t => t.msgLen) = some 0
      ∧ code (execUnpad { s0 with ct := cells [4, 4, 4], ctLen := 3 }) = some .invalidPadding
      ∧ code (execUnpad { s0 with ctLen := 1025 }) = some .lengthOutOfRange := by decide +kernel

/-- V-L2-C1. -/
theorem test_encrypt :
    (after (finish sK (encryptWith (tc 0) { sK with msg := cells secret, msgLen := 14 }))).map
      (fun t => (t.ct, t.ctLen, statusWord t))
    = some (cells secretCt, 16, 0x002F0002) := by decide +kernel

/-- V-L2-C4: the key check comes before the length check. -/
theorem test_encrypt_priority : code (execEncrypt { s0 with keyMask := 0xE, msgLen := 1024 }) = some .invalidKeyLength := by
  decide

/-- V-L2-C5. -/
theorem test_decrypt :
    (after (finish sK (decryptWith (tc 0) { sK with ct := cells secretCt, ctLen := 16 }))).map (fun t => (t.msg, t.msgLen))
    = some (cells secret, 14) := by decide +kernel

/-- V-L2-C6, C9, C10. -/
theorem test_decrypt_errors :
    code (finish sK (decryptWith (tc 0) { sK with ct := cells (List.replicate 16 0), ctLen := 16 })) = some .invalidPadding
      ∧ code (execDecrypt { sK with ctLen := 1040 }) = some .lengthOutOfRange
      ∧ code (execDecrypt { sK with ctLen := 20 }) = some .invalidCiphertextLength := by decide +kernel

/-- V-L2-E1. -/
theorem test_embed :
    (after (execEmbed sE)).map (fun t => (t.car, statusWord t))
    = some (cells [0xFF, 0xFE, 0xFF, 0xFE, 0xFE, 0xFF, 0xFE, 0xFF], 0x00300002) := by decide +kernel

/-- V-L1-8: clear, then OR. -/
theorem test_embed_clears :
    (after (execEmbed { sE with ct := cells [0x3C], car := cells [0x10, 0x11, 0x12, 0x13, 0x14, 0x15, 0x16, 0x17] })).map
      (fun t => t.car)
    = some (cells [0x10, 0x10, 0x13, 0x13, 0x15, 0x15, 0x16, 0x16]) := by decide +kernel

/-- R166's example. -/
theorem test_extract :
    (after (execExtract { sE with ct := [], car := cells [0xFF, 0xFE, 0xFF, 0xFE, 0xFE, 0xFF, 0xFE, 0xFF] })).map
      (fun t => t.ct)
    = some (cells [0xA5]) := by decide +kernel

/-- R151 and R206 at their edges. -/
theorem test_extract_errors :
    code (execExtract { sE with offset := 1 }) = some .offsetOutOfRange
      ∧ code (execExtract { sE with carLen := 7 }) = some .carrierTooSmall
      ∧ code (execExtract { sE with carLen := 4097 }) = some .lengthOutOfRange
      ∧ code (execExtract { sE with offValid := false }) = some .missingOffsetOrLength := by decide +kernel

/-- The start of HIDE in program P3, with a short carrier: one block fills 128 carrier bytes. -/
def sH : State := { sK with msg := cells secret, msgLen := 14, carLen := 136, car := cells (List.replicate 136 0) }

/-- R154's example with 136 carrier bytes and the RNG answer 5: OFFSET, CT_LEN, and the first byte 73 from CAR[5] on. -/
theorem test_hide :
    (after (finish sH (hideWith (tc 5) sH))).map (fun t => (t.ct, t.ctLen, t.offset, statusWord t))
      = some (cells secretCt, 16, 5, 0x003F0002)
    ∧ (after (finish sH (hideWith (tc 5) sH))).map (fun t => (t.car.take 14).map (fun c => c.2))
      = some [0, 0, 0, 0, 0, 1, 1, 0, 0, 1, 1, 1, 0, 0] := by decide +kernel

/-- V-L1-4: CAR_LEN 127 is too small and 128 leaves one place, with no RNG request. -/
theorem test_hide_boundary :
    code (execHide { sK with carLen := 127 }) = some .carrierTooSmall
      ∧ (after (finish sK (hideWith (tc 100) { sK with carLen := 128, car := cells (List.replicate 128 0x5A) }))).map
          (fun t => (t.offset, t.errCode)) = some (0, .ok) := by decide +kernel

/-- REVEAL after HIDE (program P3) restores the message. -/
theorem test_reveal :
    (after (finish sH (hideWith (tc 5) sH))).bind
      (fun t => (after (finish t (revealWith (tc 5) { t with msg := [], msgLen := 0 }))).map (fun u => (u.msg, u.msgLen, u.errCode)))
    = some (cells secret, 14, .ok) := by decide +kernel

/-- R212: REVEAL's checks in their order. -/
theorem test_reveal_priority :
    code (execReveal { sE with ctLen := 17 }) = some .invalidKeyLength
      ∧ code (execReveal { sE with keyMask := 0xF, offValid := false, ctLen := 17 }) = some .missingOffsetOrLength
      ∧ code (execReveal { sE with keyMask := 0xF, ctLen := 17, carLen := 4097 }) = some .lengthOutOfRange
      ∧ code (execReveal { sE with keyMask := 0xF, ctLen := 17 }) = some .invalidCiphertextLength
      ∧ code (execReveal { sE with keyMask := 0xF, ctLen := 16 }) = some .carrierTooSmall := by decide +kernel

/-! ## The host's accesses -/

/-- R183's example. -/
theorem test_status_write :
    statusWord { s0 with busyWr := true, errCode := .invalidPadding, done := true } = 0x01000402
      ∧ statusWord (wr { s0 with busyWr := true, errCode := .invalidPadding, done := true } 0x10 .word 0x01000002) = 0x00000400 := by
  decide

/-- R190's and R191's examples. -/
theorem test_window :
    (wr s0 0x10000 .word 0x72636573).msg = cells [0x73, 0x65, 0x63, 0x72]
      ∧ (hostAccess (wr s0 0x10000 .word 0x72636573) (.read 0x10003 .byte)).answer = some (.readOkay 0x72) := by decide +kernel

/-- R185's example: the key's bytes are 00 01 .. 0F. -/
theorem test_setkey :
    (wr (wr (wr (wr s0 0x30 .word 0x03020100) 0x34 .word 0x07060504) 0x38 .word 0x0B0A0908) 0x3C .word 0x0F0E0D0C).keyMask = 0xF
      ∧ sK.keyBytes.toList = (List.range 16).map (BitVec.ofNat 8) := by decide +kernel

/-- R181: the edges of the regions. -/
theorem test_bus_error :
    (wr s0 0x100 .word 0).answer = some .writeError ∧ (wr s0 0x10400 .byte 0).answer = some .writeError
      ∧ (wr s0 0x103FF .byte 0).answer = some .writeOkay ∧ (wr s0 0x80000FFE .word 0).answer = some .writeError
      ∧ (wr s0 0x80000FFC .word 0).answer = some .writeOkay ∧ (wr s0 0x80001000 .word 0).answer = some .writeError
      ∧ (wr s0 0x30 .byte 0).answer = some .writeError := by decide +kernel

/-! ## Witnesses: concrete states that meet the hypotheses and reach the clauses of the obligations -/

/-- A command word accepted, the engine's turn next: by an empty list of events, and by a pending turn. -/
def busyState (w : Word) : State := s0.start w

theorem witness_EngineTurn :
    EngineTurn (busyState 0) [] ∧ EngineTurn { busyState 0 with events := [.engine, .rst] } [.rst] :=
  ⟨.inl ⟨rfl, rfl⟩, .inr rfl⟩

/-- For DecodeFollowsFields, StepRunsTheDecodedCommand and IllegalCommandWritesOnlyCompletionFields: the largest OP with a
meaning, the smallest without, and the smallest and largest nonzero RSV. -/
theorem witness_decode :
    decode (busyState 0xA).cmd = .ok .reveal ∧ Instr.wf .reveal = true ∧ decode (busyState 0xB).cmd = .error .reservedOp
      ∧ decode (busyState 0x10).cmd = .error .reservedBits ∧ decode (busyState 0xFFFFFFF0).cmd = .error .reservedBits
      ∧ (busyState 0xB).eng = .busy := by decide

theorem witness_IdleEngineDoesNothing : s0.eng = .idle ∧ EngineTurn s0 [] ∧ EngineTurn { s0 with events := [.engine] } [] :=
  ⟨rfl, .inl ⟨rfl, rfl⟩, .inr rfl⟩

/-- For StartedCommandCompletes: accesses and a reset may come first. -/
theorem witness_StartedCommandCompletes :
    ({ busyState 0 with events := [.access (.read 0x10 .word), .rst] } : State).eng = .busy := rfl

theorem witness_EveryStepKeepsInvariant : CoreInv sE ∧ ∃ t, step { sE with events := [.rst] } = .next t := by
  refine ⟨⟨fun b => ?_, by decide, fun h => ?_, fun h => ?_, fun h => ?_, fun w _ => ?_⟩, _, rfl⟩
  · cases b
    · exact ⟨by decide, by decide⟩
    · exact ⟨by decide, by decide⟩
    · exact ⟨by decide, by decide⟩
  · exact absurd h (by decide)
  · exact absurd h (by decide)
  · exact absurd h (by decide)
  · match w with
    | 0 => rfl
    | 1 => rfl
    | 2 => rfl
    | 3 => rfl

/-- For CompletionLeavesIdleDoneAndCmd, ErrorsArePrecise and ForbiddenAndReservedCodesNeverWritten: a completion with code 0
and one with another code. -/
theorem witness_completion :
    (∃ t, step (busyState 0) = .next t ∧ t.errCode = .ok) ∧ ∃ t, step (busyState 0xB) = .next t ∧ t.errCode ≠ .ok :=
  ⟨⟨_, rfl, rfl⟩, ⟨_, rfl, by decide⟩⟩

/-- For EngineNeverWritesHostState and LastMessageCellIsNeverWritten. -/
theorem witness_exec_next : ∃ t, exec .pad s0 = .next t := ⟨_, rfl⟩

/-- HIDE with no room to choose: OFFSET becomes 0 without a draw. -/
def sH0 : State := { sK with carLen := 128, car := cells (List.replicate 128 0x5A), offset := 7 }

/-- For WritersOfEachResult: every result does change at some command. -/
theorem witness_WritersOfEachResult :
    (∃ t, exec .unpad { s0 with ct := cells [3, 3, 1], ctLen := 3 } = .next t ∧ t.msgLen ≠ 0 ∧ t.msg.read 0 ≠ none)
      ∧ (∃ t, exec .pad s0 = .next t ∧ t.ctLen ≠ s0.ctLen ∧ t.lenValid ≠ s0.lenValid ∧ t.ct.read 0 ≠ s0.ct.read 0)
      ∧ (∃ t, exec .hide sH0 = .next t ∧ t.offset ≠ sH0.offset ∧ t.offValid ≠ sH0.offValid)
      ∧ (∃ t, exec .embed sE = .next t ∧ t.car.read 1 ≠ sE.car.read 1)
      ∧ (∃ s t, exec .encBlock s = .next t ∧ t.blkOut ≠ s.blkOut) := by
  refine ⟨⟨_, rfl, by decide +kernel, by decide +kernel⟩, ⟨_, rfl, by decide +kernel, by decide, by decide +kernel⟩,
    ⟨_, rfl, by decide, by decide⟩, ⟨_, rfl, by decide +kernel⟩, ?_⟩
  let y := Quad.ofBytes (Config.encipher sK.keyBytes sK.blkinBytes)
  refine ⟨{ sK with blkOut := { y with w0 := ~~~y.w0 } }, _, rfl, fun h => ?_⟩
  have h0 : y.w0 = ~~~y.w0 := congrArg Quad.w0 h
  have hb := congrArg (fun v : Word => v.getLsbD 0) h0
  simp at hb

/-- For EncBlockResult and DecBlockResult: one key word missing, and a loaded key. -/
theorem witness_key_clauses : ({ s0 with keyMask := 0x7 } : State).keyMask ≠ 0xF#4 ∧ sK.keyMask = 0xF#4 := by decide

/-- For PadResult, EncryptResult, HideResult: the longest message, and one byte more. -/
theorem witness_msgLen_clauses :
    bufCap s0.params = 1024 ∧ carCap s0.params = 4096
      ∧ ({ s0 with msgLen := 1023 } : State).msgLen.toNat ≤ bufCap s0.params - 1
      ∧ ({ s0 with msgLen := 1024 } : State).msgLen.toNat > bufCap s0.params - 1 := by decide

/-- For UnpadResult: its three clauses at their edges. -/
theorem witness_UnpadResult :
    ({ s0 with ctLen := 1025 } : State).ctLen.toNat > bufCap s0.params
      ∧ ¬ PaddingValid (State.readByte { s0 with ct := cells [4, 4, 4] } .ct) 3 4
      ∧ PaddingValid (State.readByte { s0 with ct := cells [3, 3, 3] } .ct) 3 3
      ∧ PaddingValid (State.readByte { s0 with ct := cells (List.replicate 16 0x10) } .ct) 16 16 := by decide +kernel

/-- For EmbedResult and ExtractResult: each clause, at the value beside the next clause. -/
theorem witness_placement_clauses :
    ({ sE with lenValid := false } : State).lenValid = false
      ∧ ({ sE with carLen := 4097 } : State).carLen.toNat > carCap sE.params
      ∧ 8 * sE.ctLen.toNat > ({ sE with carLen := 7 } : State).carLen.toNat
      ∧ ({ sE with offset := 1 } : State).offset.toNat > sE.carLen.toNat - 8 * sE.ctLen.toNat
      ∧ sE.offset.toNat ≤ sE.carLen.toNat - 8 * sE.ctLen.toNat ∧ 8 * sE.ctLen.toNat = sE.carLen.toNat
      ∧ sE.offValid = true ∧ sE.lenValid = true := by decide

/-- For HideResult: the carrier too small by one byte, and just large enough; beyond CAR_CAP. -/
theorem witness_HideResult :
    8 * (16 * (sK.msgLen.toNat / 16 + 1)) > ({ sK with carLen := 127 } : State).carLen.toNat
      ∧ 8 * (16 * (sH0.msgLen.toNat / 16 + 1)) = sH0.carLen.toNat
      ∧ ({ sK with carLen := 4097 } : State).carLen.toNat > carCap sK.params := by decide

/-- The ciphertext block at the configured ports, under key K, of sixteen bytes `v`. -/
def ctOf (v : Byte) : Block := Config.encipher sK.keyBytes (Vector.replicate 16 v)

/-- It is deciphered to sixteen bytes `v`, where the configured cipher satisfies R11's premise. -/
theorem blockwise_ctOf (h : CipherInverse Config.ports) (v : Byte) (cell : Nat → Byte)
    (hc : ∀ a, (ha : a < 16) → cell a = (ctOf v)[a]) (a : Nat) (ha : a < 16) :
    blockwise (Config.decipher sK.key.bytes) cell a = v := by
  have hb : blockOf cell 0 = ctOf v := by
    apply Vector.ext
    intro i hi
    simp [blockOf, hc i hi]
  have hd : Config.decipher sK.key.bytes (ctOf v) = Vector.replicate 16 v := h sK.keyBytes _
  have ha0 : a / 16 = 0 := by omega
  simp only [blockwise, ha0, hb, hd, Vector.getElem_replicate]

/-- So sixteen bytes 0x10 un-pad (to the empty message), and sixteen bytes 0 do not. -/
theorem paddingValid_ctOf (h : CipherInverse Config.ports) (cell : Nat → Byte) :
    ((∀ a, (ha : a < 16) → cell a = (ctOf 0x10)[a]) → PaddingValid (blockwise (Config.decipher sK.key.bytes) cell) 16 16)
    ∧ ((∀ a, (ha : a < 16) → cell a = (ctOf 0)[a]) → ¬ PaddingValid (blockwise (Config.decipher sK.key.bytes) cell) 16 0) := by
  refine ⟨fun hc => ?_, fun _ hp => absurd hp.2.2.1 (by decide)⟩
  have hq := blockwise_ctOf h 0x10 cell hc
  refine ⟨by decide, by rw [hq 15 (by decide)]; rfl, by decide, by decide, by decide, fun t ht => ?_⟩
  rw [hq _ (by omega), hq 15 (by decide)]

/-- A state with that block in CT, for DECRYPT. -/
def sD (v : Byte) : State := { sK with ct := cells (ctOf v).toList, ctLen := 16 }

theorem readByte_sD (v : Byte) (a : Nat) (h : a < 16) : (sD v).readByte .ct a = (ctOf v)[a] := by
  apply State.readByte_written
  have hr := Memory.read_writeRange_inside [] 0 (ctOf v).toList a (by simpa using h)
  rw [Nat.zero_add, Vector.getElem_toList] at hr
  exact hr

/-- For DecryptResult: its first failing clauses at their edges; and, because `D` is opaque, its last two clauses where
the configured cipher satisfies R11's premise. -/
theorem witness_DecryptResult :
    (sK.ctLen.toNat = 0 ∧ ({ sK with ctLen := 17 } : State).ctLen.toNat % 16 ≠ 0
      ∧ ({ sK with ctLen := 1025 } : State).ctLen.toNat > bufCap sK.params)
    ∧ (CipherInverse Config.ports → ∀ v, (sD v).keyMask = 0xF#4 ∧ (sD v).ctLen.toNat = 16
        ∧ (v = 0x10 → PaddingValid (blockwise (Config.decipher (sD v).key.bytes) ((sD v).readByte .ct)) 16 16)
        ∧ (v = 0 → ¬ PaddingValid (blockwise (Config.decipher (sD v).key.bytes) ((sD v).readByte .ct)) 16 0)) := by
  refine ⟨by decide, fun h v => ⟨rfl, rfl, ?_, ?_⟩⟩
  · rintro rfl
    exact (paddingValid_ctOf h _).1 (readByte_sD 0x10)
  · rintro rfl
    exact (paddingValid_ctOf h _).2 (readByte_sD 0)

/-- The carrier that holds a ciphertext, bit by bit. -/
def carrierOf (y : List Byte) : Memory := cells (embedBytes (List.replicate (8 * y.length) 0) y)

/-- A state whose carrier holds that block, for REVEAL. -/
def sR (v : Byte) : State :=
  { sK with car := carrierOf (ctOf v).toList, ctLen := 16, lenValid := true, offset := 0, offValid := true, carLen := 128 }

theorem carries_sR (v : Byte) :
    Carries ((sR v).readByte .car) (sR v).offset.toNat (sR v).ctLen.toNat (fun i => (ctOf v).toList.getD i 0) := by
  intro i hi j hj
  have hi16 : i < 16 := hi
  have hl : (ctOf v).toList.length = 16 := Vector.length_toList
  have hr := Memory.read_writeRange_inside [] 0 (embedBytes (List.replicate (8 * (ctOf v).toList.length) 0) (ctOf v).toList)
    (8 * i + j) (by rw [embedBytes_length]; omega)
  have h1 : (8 * i + j) / 8 = i := by omega
  have h2 : (8 * i + j) % 8 = j := by omega
  rw [embedBytes_getElem, h1, h2, Nat.zero_add] at hr
  have h0 : (sR v).offset.toNat + 8 * i + j = 8 * i + j := by
    show 0 + 8 * i + j = _
    omega
  rw [h0, State.readByte_written (sR v) .car _ _ hr, embedBit_low]

/-- For RevealResult: a `y` that the carrier holds; its first failing clauses at their edges; and, because `D` is opaque, its
last two clauses where the configured cipher satisfies R11's premise. -/
theorem witness_RevealResult :
    (∀ v, Carries ((sR v).readByte .car) (sR v).offset.toNat (sR v).ctLen.toNat (fun i => (ctOf v).toList.getD i 0))
    ∧ (({ sE with ctLen := 17 } : State).ctLen.toNat % 16 ≠ 0
      ∧ 8 * (sR 0).ctLen.toNat > ({ sR 0 with carLen := 127 } : State).carLen.toNat
      ∧ ({ sR 0 with offset := 1 } : State).offset.toNat > (sR 0).carLen.toNat - 8 * (sR 0).ctLen.toNat
      ∧ (sR 0).offset.toNat ≤ (sR 0).carLen.toNat - 8 * (sR 0).ctLen.toNat)
    ∧ (CipherInverse Config.ports → ∀ v, (sR v).keyMask = 0xF#4
        ∧ (v = 0x10 → PaddingValid (blockwise (Config.decipher (sR v).key.bytes) (fun i => (ctOf v).toList.getD i 0)) 16 16)
        ∧ (v = 0 → ¬ PaddingValid (blockwise (Config.decipher (sR v).key.bytes) (fun i => (ctOf v).toList.getD i 0)) 16 0)) := by
  have hg : ∀ v a, (ha : a < 16) → (ctOf v).toList.getD a 0 = (ctOf v)[a] := by
    intro v a ha
    rw [List.getD_eq_getElem _ _ (by simpa using ha), Vector.getElem_toList]
  refine ⟨carries_sR, by decide, fun h v => ⟨rfl, ?_, ?_⟩⟩
  · rintro rfl
    exact (paddingValid_ctOf h _).1 (hg 0x10)
  · rintro rfl
    exact (paddingValid_ctOf h _).2 (hg 0)

/-- For InvalidKeyLengthExactlyWithoutKey: a command that fails for want of the key, and one that does not need it. -/
theorem witness_InvalidKeyLength :
    (∃ t, exec .hide s0 = .next t ∧ t.errCode = .invalidKeyLength) ∧ ∃ t, exec .embed s0 = .next t ∧ t.errCode ≠ .invalidKeyLength :=
  ⟨⟨_, rfl, rfl⟩, ⟨_, rfl, by decide⟩⟩

/-- For UnpadRestoresPadded, EncryptThenDecryptRestoresMessage, EncryptIsDeterministic: a WRITTEN message, and the longest. -/
theorem witness_written_message :
    Written (cells secret) 0 14 ∧ ({ sK with msgLen := 14 } : State).msgLen.toNat ≤ bufCap sK.params - 1
      ∧ ({ sK with msgLen := 1023 } : State).msgLen.toNat ≤ bufCap sK.params - 1
      ∧ SameInside (cells secret) (cells (secret ++ [1])) 0 14 := by decide +kernel

/-- For BlocksAreIndependent. -/
theorem witness_BlocksAreIndependent : secretCt.length % 16 = 0 ∧ ([] : List Byte).length % 16 = 0 := by decide

/-- For CipherInverseBothWays, EncryptThenDecryptRestoresMessage, HideThenRevealRestoresMessage: TC satisfies R11's premise. -/
theorem witness_CipherInverse (r : Nat) : CipherInverse (tc r) := by
  intro K B
  apply Vector.ext
  intro i hi
  simp [tc]

/-- For HideThenRevealRestoresMessage: HIDE with TC succeeds on a WRITTEN message, and the state it leaves is one of those
the second half speaks of. -/
theorem witness_HideThenReveal :
    Written sH.msg 0 sH.msgLen.toNat ∧ ∃ t, finish sH (hideWith (tc 5) sH) = .next t ∧ t.errCode = .ok
      ∧ SameInside t.car t.car t.offset.toNat (8 * t.ctLen.toNat) :=
  ⟨by decide +kernel, _, rfl, rfl, fun _ _ => rfl⟩

/-- For HideIsEncryptThenEmbed, ExtractionInvertsInsertion, OnlyBitZeroOfTheCarrierChanges: HIDE at the configured ports
succeeds, at offset 0, on a WRITTEN carrier. -/
theorem witness_HideIsEncryptThenEmbed :
    ∃ t, exec .hide sH0 = .next t ∧ t.errCode = .ok ∧ Written sH0.car t.offset.toNat (8 * t.ctLen.toNat)
      ∧ ∃ y : Nat → Byte, ∀ a, a < t.ctLen.toNat → t.ct.read a = some (y a) := by
  let y := hideCiphertext Config.ports sH0
  have hc : (BitVec.ofNat 32 y.length).toNat = 16 := by rw [hideCiphertext_length]; decide
  have hd : drawOffset Config.ports sH0.tick (sH0.carLen.toNat - 8 * paddedLen sH0.msgLen.toNat) = 0 :=
    if_pos (by decide)
  have hr : hideWith Config.ports sH0 = .ok (((sH0.putCiphertext y).writeOffset 0).embedBits 0 y) := by
    rw [hideWith, if_neg (by decide), if_neg (by decide)]
    simp only [hd]
    rw [if_neg (by decide)]
    rfl
  refine ⟨(((sH0.putCiphertext y).writeOffset 0).embedBits 0 y).completed .ok, ?_, rfl, ?_, fun a => y.getD a 0, ?_⟩
  · rw [exec_eq_finish]
    exact (congrArg (finish sH0) hr).trans (finish_ok _ _)
  · show Written sH0.car 0 (8 * (BitVec.ofNat 32 y.length).toNat)
    rw [hc]
    decide +kernel
  · intro a ha
    have ha' : a < y.length := by
      have hl : y.length = 16 := hideCiphertext_length _ _
      have h16 : a < (BitVec.ofNat 32 y.length).toNat := ha
      omega
    have h := Memory.read_writeRange_inside sH0.ct 0 y a ha'
    rw [Nat.zero_add] at h
    simp only
    rw [List.getD_eq_getElem _ _ ha']
    exact h

/-- For EmbedIsIdempotent, ExtractionInvertsInsertion, OnlyBitZeroOfTheCarrierChanges: EMBED succeeds on a WRITTEN
ciphertext. -/
theorem witness_embed :
    (∃ t, exec .embed sE = .next t ∧ t.errCode = .ok ∧ SameInside t.car t.car t.offset.toNat (8 * t.ctLen.toNat))
      ∧ Written sE.ct 0 sE.ctLen.toNat :=
  ⟨⟨_, rfl, rfl, fun _ _ => rfl⟩, by decide +kernel⟩

/-- For BusErrorExactlyWhenAndChangesNothing: each kind of bus error beside its nearest legal access. -/
theorem witness_BusError :
    (BusError s0.params 0x100 .word ∧ BusError s0.params 0xFD .word ∧ BusError s0.params 0xFC .byte)
      ∧ (BusError s0.params 0x10400 .byte ∧ BusError s0.params 0x103FE .word ∧ BusError s0.params 0xFFFF .byte)
      ∧ (BusError s0.params 0x20400 .word ∧ BusError s0.params 0x80001000 .byte ∧ BusError s0.params 0x7FFFFFFF .byte)
      ∧ (¬ BusError s0.params 0xFC .word ∧ ¬ BusError s0.params 0x103FF .byte ∧ ¬ BusError s0.params 0x103FC .word)
      ∧ (¬ BusError s0.params 0x20000 .byte ∧ ¬ BusError s0.params 0x80000000 .word ∧ ¬ BusError s0.params 0x80000FFF .byte) :=
  ⟨⟨by decide, by decide, by decide⟩, ⟨by decide, by decide, by decide⟩, ⟨by decide, by decide, by decide⟩,
    ⟨by decide, by decide, by decide⟩, by decide, by decide, by decide⟩

/-- For WriteWhileBusyIsDropped, RunningCommandSeesItsInputs, ReadWhileBusy, CommandStart. -/
theorem witness_busy_access :
    (busyState 9).eng = .busy ∧ ¬ BusError (busyState 9).params 0x0C .word ∧ (0x0C : Word) ≠ 0x10 ∧ (0x0C : Word) ≠ 0x14
      ∧ ¬ BusError (busyState 9).params 0x18 .word ∧ ¬ BusError (busyState 9).params 0x80000000 .byte
      ∧ ∃ t, step (withAccess (busyState 9) (.write 0x0C .word 1)) = .next t :=
  ⟨rfl, by decide, by decide, by decide, by decide, by decide, _, rfl⟩

/-- For KeyWordWrite, OperandRegisterWrite, ReadOnlyRegisterWriteIgnored, RegisterReadValues: an IDLE core, the reserved
offsets at their ends, and the setting that raises `irq` at once. -/
theorem witness_register_access :
    s0.eng = .idle ∧ (0x60 % 4 = 0 ∧ 0x60 ≤ 0x60) ∧ (0xFC % 4 = 0 ∧ 0xFC ≤ 0xFC) ∧ (0x5C % 4 = 0 ∧ 0x50 ≤ 0x5C)
      ∧ ({ s0 with done := true } : State).done = true ∧ (1 : Word).getLsbD 0 = true := by decide

/-- For WindowWrite, WindowRead, MixedWidthViews: the first and the last byte and word of each window. -/
theorem witness_window :
    0 < capacity s0.params .msg ∧ 1023 < capacity s0.params .ct ∧ 1020 < capacity s0.params .ct ∧ 1020 % 4 = 0
      ∧ 4095 < capacity s0.params .car ∧ 4092 < capacity s0.params .car ∧ 4092 % 4 = 0 := by decide

/-- For ResetTakesEveryFieldToItsValue: a reset while BUSY. -/
theorem witness_reset : ({ busyState 9 with events := [.rst] } : State).events = .rst :: [] := rfl

/-- For IrqChangesOnlyAtItsCauses: every cause. -/
theorem witness_irq :
    (∃ t, step { busyState 0 with doneIe := true } = .next t ∧ t.irq = true)
      ∧ (∃ t, step (withAccess { s0 with done := true } (.write 0x14 .word 1)) = .next t ∧ t.irq = true)
      ∧ (∃ t, step (withAccess { s0 with done := true, doneIe := true } (.write 0x10 .word 2)) = .next t ∧ t.irq = false)
      ∧ (∃ t, step (withAccess { s0 with done := true, doneIe := true } (.write 0x0C .word 0)) = .next t ∧ t.irq = false)
      ∧ (∃ t, step (withAccess { s0 with done := true, doneIe := true } (.write 0x14 .word 0)) = .next t ∧ t.irq = false)
      ∧ (∃ t, step { s0 with done := true, doneIe := true, events := [.rst] } = .next t ∧ t.irq = false) :=
  ⟨⟨_, rfl, rfl⟩, ⟨_, rfl, rfl⟩, ⟨_, rfl, rfl⟩, ⟨_, rfl, rfl⟩, ⟨_, rfl, rfl⟩, ⟨_, rfl, rfl⟩⟩

/-- For EngineStateChangesOnlyAtStartCompletionReset: a start, a completion, a reset. -/
theorem witness_engine_state :
    (∃ t, step (withAccess s0 (.write 0x0C .word 3)) = .next t ∧ t.eng = .busy)
      ∧ (∃ t, step (busyState 0) = .next t ∧ t.eng = .idle)
      ∧ ∃ t, step { busyState 0 with events := [.rst] } = .next t ∧ t.eng = .idle :=
  ⟨⟨_, rfl, rfl⟩, ⟨_, rfl, rfl⟩, ⟨_, rfl, rfl⟩⟩

/-- For StickyFlagsClearedOnlyByReset: the flags set, and a write that is not a reset. -/
theorem witness_sticky :
    (withAccess sE (.write 0x24 .word 0)).events.head? ≠ some .rst ∧ sE.offValid = true ∧ sE.lenValid = true
      ∧ sK.keyMask.getLsbD 3 = true ∧ ∃ t, step (withAccess sE (.write 0x24 .word 0)) = .next t :=
  ⟨by decide, rfl, rfl, by decide, _, rfl⟩

/-- For KeyChangesOnlyByItsWrite: by its write, and by reset. -/
theorem witness_key_changes :
    (∃ t, step (withAccess s0 (.write 0x3C .word 5)) = .next t ∧ t.key.get 3 ≠ s0.key.get 3)
      ∧ ∃ t, step { sK with events := [.rst] } = .next t ∧ t.key.get 0 ≠ sK.key.get 0 :=
  ⟨⟨_, rfl, by decide⟩, ⟨_, rfl, by decide⟩⟩

end Sys2Proof.Tests
end

/-! The state of the core (10_state.md): what a command may write, what one step may change of ENG, the key and the sticky
flags, the layout of STATUS and the byte order of the register groups. -/

namespace Sys2Proof.Proofs

open Sys2Proof Sys2Proof.Machine Sys2Proof.Safety

/-! ## After reset (R63) -/

@[simp] theorem Quad.get_zero (w : Fin 4) : Quad.zero.get w = 0 := by
  match w with
  | 0 => rfl
  | 1 => rfl
  | 2 => rfl
  | 3 => rfl

@[simp] theorem reset_buf (b : Buffer) : State.reset.buf b = [] := by cases b <;> rfl

/-- Settles O9: every buffer is empty and every register holds 0. -/
theorem resetHasInvariant : Obligations.ResetHasInvariant where
  buffers b := ⟨State.reset_wf b, by simp [Memory.below]⟩
  code := rfl
  running h := nomatch h
  offset _ := rfl
  ctLen _ := rfl
  key w _ := Quad.get_zero w

/-! ## What a command writes -/

/-- Everything a command can answer: the result it computes, or the state it started in, with the completion fields. -/
theorem exec_next {i : Instr} {s t : State} (h : exec i s = .next t) :
    (∃ u, commandResult i s = .ok u ∧ t = u.completed .ok)
      ∨ ∃ code, commandResult i s = .error code ∧ t = s.completed code := by
  rw [exec_eq_finish] at h
  obtain hok | ⟨code, herr, -, ht⟩ := finish_next s t _ h
  · exact .inl hok
  · exact .inr ⟨code, herr, ht⟩

/-- Settles O14, from the frame of what a command computes. -/
theorem engineNeverWritesHostState : Obligations.EngineNeverWritesHostState := by
  intro i s t h
  obtain ⟨u, hu, rfl⟩ | ⟨code, -, rfl⟩ := exec_next h
  · obtain ⟨hcar, hcmd, hmask, hbwr, hie, hkey, hin, hpar, hev, hans, -⟩ := commandResult_frame i s u hu
    exact ⟨hcar, hcmd, hmask, hbwr, hie, hkey, hin, hpar, hev, hans⟩
  · simp

/-- Buffers that differ in a cell differ. -/
theorem ne_of_read_ne {m m' : Memory} (h : ∃ a, m.read a ≠ m'.read a) : m ≠ m' := by
  rintro rfl
  obtain ⟨a, ha⟩ := h
  exact ha rfl

/-- Settles O15, from the frame of what a command computes; an error code writes no result. -/
theorem writersOfEachResult : Obligations.WritersOfEachResult := by
  intro i s t h
  obtain ⟨u, hu, rfl⟩ | ⟨code, -, rfl⟩ := exec_next h
  · obtain ⟨-, -, -, -, -, -, -, -, -, -, -, hmsg, hct, hoff, hout, hctBuf, hcarBuf⟩ := commandResult_frame i s u hu
    exact ⟨fun hne => hmsg (.inl hne), fun hne => (hct (.inl hne)).1, fun hne => (hct (.inr hne)).1,
      fun hne => (hoff (.inl hne)).1, fun hne => (hoff (.inr hne)).1, hout,
      fun hne => hmsg (.inr (ne_of_read_ne hne)), fun hne => hctBuf (ne_of_read_ne hne),
      fun hne => hcarBuf (ne_of_read_ne hne)⟩
  · simp

/-- The message a valid padding leaves of a sequence that fits CT fits MSG without its last cell (R92): at least one byte of
padding is cut off. -/
theorem unpad_length_le {s : State} {q : List Byte} (hvalid : unpadValid q = true) (hlen : q.length ≤ s.ctLen.toNat)
    (hct : s.ctLenTooBig = false) : (unpad q).length ≤ bufCap s.params - 1 := by
  have := unpad_length_lt q hvalid
  have := (ctLenTooBig_false s).mp hct
  omega

theorem ecbDec_length_le (P : Ports) (K : Block) (x : List Byte) : (ecbDec P K x).length ≤ x.length := by
  rw [ecbDec_length]
  omega

/-- What a successful command stores in MSG: nothing, or from index 0 on a message of at most BUF_CAP - 1 bytes. -/
theorem commandResult_msg {i : Instr} {s u : State} (h : commandResult i s = .ok u) :
    u.msg = s.msg ∨ ∃ r, u.msg = s.msg.writeRange 0 r ∧ r.length ≤ bufCap s.params - 1 := by
  by_cases hsame : u.msg = s.msg
  · exact .inl hsame
  obtain ⟨-, -, -, -, -, -, -, -, -, -, -, hwriter, -⟩ := commandResult_frame i s u h
  obtain rfl | rfl | rfl := hwriter (.inr hsame)
  · obtain ⟨hct, hvalid, rfl⟩ := unpadResult_ok s u h
    exact .inr ⟨_, rfl, unpad_length_le hvalid (by simp) hct⟩
  · obtain ⟨-, hct, -, hvalid, rfl⟩ := decryptWith_ok _ s u h
    exact .inr ⟨_, rfl, unpad_length_le hvalid ((ecbDec_length_le _ _ _).trans (by simp)) hct⟩
  · obtain ⟨-, -, hct, -, -, -, hvalid, rfl⟩ := revealWith_ok _ s u h
    exact .inr ⟨_, rfl, unpad_length_le hvalid ((ecbDec_length_le _ _ _).trans (by simp)) hct⟩

/-- Settles O16: a message a command stores ends before the last cell of MSG. -/
theorem lastMessageCellIsNeverWritten : Obligations.LastMessageCellIsNeverWritten := by
  intro i s t h
  obtain ⟨u, hu, rfl⟩ | ⟨code, -, rfl⟩ := exec_next h
  · obtain hsame | ⟨r, hwrite, hlen⟩ := commandResult_msg hu
    · simp [hsame]
    · rw [State.completed_msg, hwrite, Memory.read_writeRange_outside _ _ _ _ (.inr (by omega))]
  · rfl

/-! ## Byte order of the register groups (R52, R55) -/

/-- Byte `4*w + b` of four registers is lane `b` of register `w`. -/
theorem Quad.bytes_getElem (q : Quad) (w b : Fin 4) : q.bytes[4 * w.val + b.val]'(by omega) = lane (q.get w) b.val := by
  have hreg : Fin.ofNat 4 ((4 * w.val + b.val) / 4) = w := Fin.ext (by simp only [Fin.val_ofNat]; omega)
  have hlane : (4 * w.val + b.val) % 4 = b.val := by omega
  simp only [Quad.bytes, Vector.getElem_ofFn, hreg, hlane]

/-- Register `w` made from 16 bytes holds bytes `4*w .. 4*w + 3`. -/
theorem Quad.get_ofBytes (y : Block) (w : Fin 4) :
    (Quad.ofBytes y).get w = wordOf y[4 * w.val] y[4 * w.val + 1] y[4 * w.val + 2] y[4 * w.val + 3] := by
  match w with
  | 0 => rfl
  | 1 => rfl
  | 2 => rfl
  | 3 => rfl

/-- Lane `b` of register `w` made from 16 bytes is byte `4*w + b`. -/
theorem Quad.lane_ofBytes (y : Block) (w b : Fin 4) :
    lane ((Quad.ofBytes y).get w) b.val = y[4 * w.val + b.val]'(by omega) := by
  rw [Quad.get_ofBytes]
  obtain ⟨h0, h1, h2, h3⟩ := lane_wordOf y[4 * w.val] y[4 * w.val + 1] y[4 * w.val + 2] y[4 * w.val + 3]
  match b with
  | 0 => exact h0
  | 1 => exact h1
  | 2 => exact h2
  | 3 => exact h3

/-- Settles O18. -/
theorem keyAndBlockByteOrder : Obligations.KeyAndBlockByteOrder :=
  ⟨fun s w b => Quad.bytes_getElem s.key w b, fun s w b => Quad.bytes_getElem s.blkIn w b,
    fun _ y w b => Quad.lane_ofBytes y w b⟩

/-! ## The layout of STATUS (R37) -/

/-- A one-bit field shows at its place and nowhere else. -/
theorem bitAt_getLsbD (b : Bool) (k n : Nat) (hk : k < 32) : (bitAt b k).getLsbD n = (decide (n = k) && b) := by
  obtain hlt | rfl | hgt := Nat.lt_trichotomy n k
  · simp [bitAt, hlt, Nat.ne_of_lt hlt]
  · simp [bitAt, hk]
  · have hpos : n - k ≠ 0 := by omega
    simp [bitAt, Nat.ne_of_gt hgt, hpos]

/-- A four-bit field shows at its four places and nowhere else. -/
theorem nibbleAt_getLsbD (v : BitVec 4) (k n : Nat) (hk : k + 4 ≤ 32) :
    (v.setWidth 32 <<< k).getLsbD n = (decide (k ≤ n ∧ n ≤ k + 3) && v.getLsbD (n - k)) := by
  by_cases hin : k ≤ n ∧ n ≤ k + 3
  · have hn : n < 32 := by omega
    simp [hin, hn]
  · obtain hlt | hhigh : n < k ∨ 4 ≤ n - k := by omega
    · simp [hin, hlt]
    · simp [hin, BitVec.getLsbD_of_ge v _ hhigh]

/-- Settles O48: the seven fields lie at places of their own, so at most one of them shows at a bit. -/
theorem statusLayout : Obligations.StatusLayout := by
  intro s n
  have hbusy : s.busy = decide (s.eng = .busy) := by cases h : s.eng <;> simp [State.busy, h]
  simp only [statusWord, BitVec.getLsbD_or, bitAt_getLsbD _ _ n (by decide : 0 < 32),
    bitAt_getLsbD _ _ n (by decide : 1 < 32), nibbleAt_getLsbD _ 8 n (by decide), nibbleAt_getLsbD _ 16 n (by decide),
    bitAt_getLsbD _ _ n (by decide : 20 < 32), bitAt_getLsbD _ _ n (by decide : 21 < 32),
    bitAt_getLsbD _ _ n (by decide : 24 < 32), hbusy]
  split_ifs with h0 h1 hcode hmask hoff hlen hbwr
  · simp [h0]
  · simp [h1]
  · have : n ≠ 20 ∧ n ≠ 21 ∧ n ≠ 24 := by omega
    simp [h0, h1, hcode, this, show ¬ 16 ≤ n by omega]
  · have : n ≠ 20 ∧ n ≠ 21 ∧ n ≠ 24 := by omega
    simp [h0, h1, hmask, this, show ¬ n ≤ 11 by omega]
  · simp [hoff]
  · simp [hlen]
  · simp [hbwr]
  · simp [h0, h1, hcode, hmask, hoff, hlen, hbwr]

/-! ## The host cannot read the key (R51, R220) -/

/-- Two states that agree but for the key words. -/
def AgreeButKey (s t : State) : Prop := ∃ k, t = { s with key := k }

section AgreeButKey

variable {s t : State}

theorem AgreeButKey.busy_eq (h : AgreeButKey s t) : t.busy = s.busy := by
  obtain ⟨k, rfl⟩ := h
  rfl

theorem AgreeButKey.params_eq (h : AgreeButKey s t) : t.params = s.params := by
  obtain ⟨k, rfl⟩ := h
  rfl

theorem AgreeButKey.tick_eq (h : AgreeButKey s t) : t.tick = s.tick := by
  obtain ⟨k, rfl⟩ := h
  rfl

theorem AgreeButKey.readReg_eq (h : AgreeButKey s t) (r : Reg) : readReg t r = readReg s r := by
  obtain ⟨k, rfl⟩ := h
  cases r <;> rfl

theorem AgreeButKey.readRegBusy_eq (h : AgreeButKey s t) (r : Reg) (d : Word) : readRegBusy t r d = readRegBusy s r d := by
  obtain ⟨k, rfl⟩ := h
  cases r <;> rfl

theorem AgreeButKey.readByte_eq (h : AgreeButKey s t) (b : Buffer) (i : Nat) : t.readByte b i = s.readByte b i := by
  obtain ⟨k, rfl⟩ := h
  cases b <;> rfl

theorem AgreeButKey.readWindow_eq (h : AgreeButKey s t) (b : Buffer) (i : Nat) (n : AccessSize) :
    readWindow t b i n = readWindow s b i n := by
  cases n <;> simp only [readWindow, h.readByte_eq]

/-- No value a read can return depends on the key words. -/
theorem AgreeButKey.readValue_eq (h : AgreeButKey s t) (a : Word) (n : AccessSize) : readValue t a n = readValue s a n := by
  simp only [readValue, h.params_eq, h.busy_eq, h.tick_eq, h.readReg_eq, h.readRegBusy_eq, h.readWindow_eq]

theorem AgreeButKey.dropWrite (h : AgreeButKey s t) : AgreeButKey s.dropWrite t.dropWrite := by
  obtain ⟨k, rfl⟩ := h
  exact ⟨k, rfl⟩

theorem AgreeButKey.memWrite (h : AgreeButKey s t) (b : Buffer) (i : Nat) (vs : List Byte) :
    AgreeButKey (s.memWrite b i vs) (t.memWrite b i vs) := by
  obtain ⟨k, rfl⟩ := h
  cases b <;> exact ⟨k, rfl⟩

theorem AgreeButKey.writeReg (h : AgreeButKey s t) (r : Reg) (v : Word) :
    AgreeButKey (writeReg s r v) (writeReg t r v) := by
  obtain ⟨k, rfl⟩ := h
  cases r <;> exact ⟨_, rfl⟩

theorem AgreeButKey.withAnswer (h : AgreeButKey s t) (an : Option BusAnswer) :
    AgreeButKey { s with answer := an } { t with answer := an } := by
  obtain ⟨k, rfl⟩ := h
  exact ⟨k, rfl⟩

theorem AgreeButKey.writeEffect (h : AgreeButKey s t) (a : Word) (n : AccessSize) (v : Word) :
    AgreeButKey (writeEffect s a n v) (writeEffect t a n v) := by
  simp only [Machine.writeEffect, h.params_eq, h.busy_eq]
  cases targetOf s.params a with
  | reg off =>
    dsimp only
    split
    · exact h.dropWrite
    · exact h.writeReg _ v
  | window b i =>
    dsimp only
    split
    · exact h.dropWrite
    · exact h.memWrite b i _
  | unmapped => exact h

/-- States that agree but for the key words do so after any host access, the answer included. -/
theorem AgreeButKey.hostAccess (h : AgreeButKey s t) (a : HostAccess) :
    AgreeButKey (hostAccess s a) (hostAccess t a) := by
  cases a with
  | read a n =>
    have hvalue := h.readValue_eq a n
    obtain ⟨k, rfl⟩ := h
    exact ⟨k, by simp only [Machine.hostAccess, hostRead, hvalue]⟩
  | write a n v =>
    simp only [Machine.hostAccess, hostWrite, h.params_eq]
    split
    · exact (h.writeEffect a n v).withAnswer _
    · obtain ⟨k, rfl⟩ := h
      exact ⟨k, rfl⟩

end AgreeButKey

/-- Settles O54. -/
theorem hostCannotReadTheKey : Obligations.HostCannotReadTheKey := by
  intro s k h
  have hagree : AgreeButKey s { s with key := k } := ⟨k, rfl⟩
  obtain ⟨k', hk'⟩ := hagree.hostAccess h
  exact ⟨_, _, step_withAccess s h, step_withAccess _ h, by rw [hk']⟩

/-! ## What one step may change -/

/-- Everything a step that answers a next state can be: a turn of the engine, a reset, or a host access. -/
theorem step_next {s t : State} (h : step s = .next t) :
    (∃ rest, EngineTurn s rest ∧ engineStep { s with events := rest } = .next t)
      ∨ (∃ rest, s.events = .rst :: rest ∧ t = State.resetStep { s with events := rest })
      ∨ ∃ a rest, s.events = .access a :: rest ∧ t = hostAccess { s with events := rest } a := by
  obtain ⟨hev, -⟩ | ⟨rest, hev, -⟩ | ⟨rest, hev, hstep⟩ | ⟨a, rest, hev, hstep⟩ := step_cases s
  · have hturn : EngineTurn s [] := .inl ⟨hev, rfl⟩
    exact .inl ⟨[], hturn, step_engineTurn s [] hturn ▸ h⟩
  · have hturn : EngineTurn s rest := .inr hev
    exact .inl ⟨rest, hturn, step_engineTurn s rest hturn ▸ h⟩
  · exact .inr (.inl ⟨rest, hev, Host.Outcome.next.inj (h ▸ hstep)⟩)
  · exact .inr (.inr ⟨a, rest, hev, Host.Outcome.next.inj (h ▸ hstep)⟩)

/-- Everything the engine's turn can answer: an IDLE engine changes nothing; a BUSY one runs a command or completes with
IllegalCommand (R109, R225). -/
theorem engineStep_next {s t : State} (h : engineStep s = .next t) :
    (s.eng = .idle ∧ t = s) ∨ (s.eng = .busy ∧ ((∃ i, exec i s = .next t) ∨ t = s.completed .illegalCommand)) := by
  cases hs : s.eng with
  | idle =>
    have hidle : engineStep s = .next s := by simp [engineStep, hs]
    exact .inl ⟨rfl, Host.Outcome.next.inj (h ▸ hidle)⟩
  | busy =>
    refine .inr ⟨rfl, ?_⟩
    obtain ⟨i, -, hrun⟩ | ⟨-, hill⟩ := engineStep_busy s hs
    · exact .inl ⟨i, by rw [exec_eq_finish, ← hrun, h]⟩
    · exact .inr (Host.Outcome.next.inj (h ▸ hill))

/-- Every completion sets DONE (R112). -/
theorem exec_done {i : Instr} {s t : State} (h : exec i s = .next t) : t.done = true := by
  obtain ⟨u, -, rfl⟩ | ⟨code, -, rfl⟩ := exec_next h <;> rfl

/-! ### The register map, read backwards (R49, R51) -/

theorem regAt_eq_cmd {off : Nat} (h : regAt off = .cmd) : off = 0x0C := by
  simp only [regAt, ite_eq_iff, reduceCtorEq, and_true, and_false, false_or, or_false] at h
  omega

theorem regAt_eq_key {off : Nat} {w : Fin 4} (h4 : off % 4 = 0) (h : regAt off = .key w) : off = 0x30 + 4 * w.val := by
  simp only [regAt, ite_eq_iff, reduceCtorEq, Reg.key.injEq, and_false, false_or, or_false] at h
  obtain ⟨-, -, -, -, -, -, -, -, -, -, hrange, rfl⟩ := h
  simp only [Fin.val_ofNat]
  omega

/-! ### ENG -/

theorem writeReg_eng (s : State) (r : Reg) (v : Word) : r = .cmd ∨ (writeReg s r v).eng = s.eng := by
  cases r <;> simp [writeReg]

/-- A host access changes ENG only as a write of CMD, which CMD then holds (R107). -/
theorem hostAccess_eng (s : State) (h : HostAccess) :
    (hostAccess s h).eng = s.eng
      ∨ ∃ v, h = .write 0x0C .word v ∧ (hostAccess s h).eng = .busy ∧ (hostAccess s h).cmd = v := by
  obtain ⟨_, _, heq⟩ | ⟨_, heq⟩ | ⟨_, b, i, vs, heq⟩ | ⟨_, off, v, rfl, -, -, heq⟩ := hostAccess_cases s h
  · simp [heq]
  · simp [heq]
  · simp [heq]
  · obtain hcmd | hsame := writeReg_eng s (regAt off.val) v
    · refine .inr ⟨v, ?_, ?_, ?_⟩
      · rw [regAt_eq_cmd hcmd]; rfl
      · rw [heq, hcmd]; rfl
      · rw [heq, hcmd]; rfl
    · exact .inl (by rw [heq]; exact hsame)

theorem not_idle_and_busy {e : Eng} (hidle : e = .idle) (hbusy : e = .busy) : False := nomatch hidle.symm.trans hbusy

/-- Settles O58, by what the step is. -/
theorem engineStateChangesOnlyAtStartCompletionReset : Obligations.EngineStateChangesOnlyAtStartCompletionReset := by
  intro s t h
  obtain ⟨rest, hturn, heng⟩ | ⟨rest, hrst, rfl⟩ | ⟨a, rest, hev, rfl⟩ := step_next h
  · obtain ⟨-, rfl⟩ | ⟨hwasBusy, hcompletes⟩ := engineStep_next heng
    · exact ⟨fun hi hb => (not_idle_and_busy hi hb).elim, fun hb hi => (not_idle_and_busy hi hb).elim⟩
    · refine ⟨fun hi _ => (not_idle_and_busy hi hwasBusy).elim, fun _ _ => .inl ⟨rest, hturn, ?_⟩⟩
      obtain ⟨i, hexec⟩ | rfl := hcompletes
      · exact exec_done hexec
      · rfl
  · exact ⟨fun _ hb => (not_idle_and_busy rfl hb).elim, fun _ _ => .inr ⟨rest, hrst⟩⟩
  · obtain hsame | ⟨v, rfl, hnowBusy, hcmd⟩ := hostAccess_eng { s with events := rest } a
    · rw [hsame]
      exact ⟨fun hi hb => (not_idle_and_busy hi hb).elim, fun hb hi => (not_idle_and_busy hi hb).elim⟩
    · exact ⟨fun _ _ => ⟨v, rest, hev, hcmd⟩, fun _ hi => (not_idle_and_busy hi hnowBusy).elim⟩

/-! ### The sticky flags -/

/-- KEYMASK, OFF_VALID and LEN_VALID of `s` are still set in `t` (R41 to R43). -/
structure FlagsKept (s t : State) : Prop where
  keyMask : ∀ w, s.keyMask.getLsbD w = true → t.keyMask.getLsbD w = true
  offValid : s.offValid = true → t.offValid = true
  lenValid : s.lenValid = true → t.lenValid = true

/-- States with the same flags, as most updates leave them. -/
theorem flagsKept_of_eq {s t : State} (hmask : t.keyMask = s.keyMask) (hoff : t.offValid = s.offValid)
    (hlen : t.lenValid = s.lenValid) : FlagsKept s t :=
  ⟨fun _ h => hmask ▸ h, fun h => hoff ▸ h, fun h => hlen ▸ h⟩

theorem writeReg_flagsKept (s : State) (r : Reg) (v : Word) : FlagsKept s (writeReg s r v) := by
  cases r with
  | key w => exact ⟨fun n hn => by simp [writeReg, hn], id, id⟩
  | ctLen => exact ⟨fun _ => id, id, fun _ => rfl⟩
  | offset => exact ⟨fun _ => id, fun _ => rfl, id⟩
  | _ => exact flagsKept_of_eq rfl rfl rfl

theorem hostAccess_flagsKept (s : State) (h : HostAccess) : FlagsKept s (hostAccess s h) := by
  obtain ⟨_, _, heq⟩ | ⟨_, heq⟩ | ⟨_, b, i, vs, heq⟩ | ⟨_, off, v, -, -, -, heq⟩ := hostAccess_cases s h
  · rw [heq]; exact flagsKept_of_eq rfl rfl rfl
  · rw [heq]; exact flagsKept_of_eq rfl rfl rfl
  · rw [heq]; exact flagsKept_of_eq (by simp) (by simp) (by simp)
  · rw [heq]
    obtain ⟨hmask, hoff, hlen⟩ := writeReg_flagsKept s (regAt off.val) v
    exact ⟨hmask, hoff, hlen⟩

/-- A command leaves the flags or sets them (R42, R43). -/
theorem exec_flagsKept {i : Instr} {s t : State} (h : exec i s = .next t) : FlagsKept s t := by
  obtain ⟨u, hu, rfl⟩ | ⟨code, -, rfl⟩ := exec_next h
  · obtain ⟨-, -, hmask, -, -, -, -, -, -, -, -, -, hct, hoff, -⟩ := commandResult_frame i s u hu
    exact ⟨fun w hw => by simpa [hmask] using hw,
      fun hs => (eq_or_ne u.offValid s.offValid).elim (·.trans hs) fun hne => (hoff (.inr hne)).2,
      fun hs => (eq_or_ne u.lenValid s.lenValid).elim (·.trans hs) fun hne => (hct (.inr hne)).2⟩
  · exact flagsKept_of_eq rfl rfl rfl

theorem engineStep_flagsKept {s t : State} (h : engineStep s = .next t) : FlagsKept s t := by
  obtain ⟨-, rfl⟩ | ⟨-, ⟨i, hexec⟩ | rfl⟩ := engineStep_next h
  · exact flagsKept_of_eq rfl rfl rfl
  · exact exec_flagsKept hexec
  · exact flagsKept_of_eq rfl rfl rfl

/-- Settles O59: the engine's turn and every host access keep the flags. -/
theorem stickyFlagsClearedOnlyByReset : Obligations.StickyFlagsClearedOnlyByReset := by
  intro s t h hnot
  have hkept : ∃ rest, FlagsKept { s with events := rest } t := by
    obtain ⟨rest, -, heng⟩ | ⟨rest, hrst, -⟩ | ⟨a, rest, -, rfl⟩ := step_next h
    · exact ⟨rest, engineStep_flagsKept heng⟩
    · simp [hrst] at hnot
    · exact ⟨rest, hostAccess_flagsKept _ a⟩
  obtain ⟨rest, hmask, hoff, hlen⟩ := hkept
  exact ⟨fun w _ => hmask w, hoff, hlen⟩

/-! ### The key -/

theorem writeReg_key (s : State) (r : Reg) (v : Word) :
    (∃ w, r = .key w ∧ (writeReg s r v).key = s.key.set w v) ∨ (writeReg s r v).key = s.key := by
  cases r with
  | key w => exact .inl ⟨w, rfl, rfl⟩
  | _ => exact .inr rfl

/-- A host access changes the key only as a write of a key word while IDLE (R182, R185). -/
theorem hostAccess_key (s : State) (h : HostAccess) :
    (hostAccess s h).key = s.key
      ∨ ∃ (w : Fin 4) (v : Word), h = .write (BitVec.ofNat 32 (0x30 + 4 * w.val)) .word v ∧ s.eng = .idle
          ∧ (hostAccess s h).key = s.key.set w v := by
  obtain ⟨_, _, heq⟩ | ⟨_, heq⟩ | ⟨_, b, i, vs, heq⟩ | ⟨_, off, v, rfl, h4, hmay, heq⟩ := hostAccess_cases s h
  · simp [heq]
  · simp [heq]
  · simp [heq]
  · obtain ⟨w, hreg, hset⟩ | hsame := writeReg_key s (regAt off.val) v
    · refine .inr ⟨w, v, by rw [regAt_eq_key h4 hreg], ?_, by rw [heq]; exact hset⟩
      simpa [hreg, writableBusy] using hmay
    · exact .inl (by rw [heq]; exact hsame)

theorem engineStep_key {s t : State} (h : engineStep s = .next t) : t.key = s.key := by
  obtain ⟨-, rfl⟩ | ⟨-, ⟨i, hexec⟩ | rfl⟩ := engineStep_next h
  · rfl
  · obtain ⟨-, -, -, -, -, hkey, -⟩ := engineNeverWritesHostState i s t hexec
    exact hkey
  · rfl

/-- Settles O60: a write of another key word leaves `KEYw`. -/
theorem keyChangesOnlyByItsWrite : Obligations.KeyChangesOnlyByItsWrite := by
  intro s t w h hne
  obtain ⟨rest, -, heng⟩ | ⟨rest, hrst, -⟩ | ⟨a, rest, hev, rfl⟩ := step_next h
  · exact absurd (congrArg (Quad.get · w) (engineStep_key heng)) hne
  · exact .inr ⟨rest, hrst⟩
  · obtain hsame | ⟨w', v, rfl, hidle, hset⟩ := hostAccess_key { s with events := rest } a
    · exact absurd (congrArg (Quad.get · w) hsame) hne
    · by_cases hw : w = w'
      · subst hw
        exact .inl ⟨v, rest, hev, hidle, by rw [hset, Quad.get_set_same]⟩
      · exact absurd (by rw [hset, Quad.get_set_other _ _ _ _ hw]) hne

end Sys2Proof.Proofs

/-! The memory of the core (20_memory.md): every step keeps the buffers canonical and in bounds and the registers at their
reset values until written, the byte view and the word view of a window are one array, and a running command's inputs stay. -/

namespace Sys2Proof.Proofs

open Sys2Proof Sys2Proof.Machine Sys2Proof.Safety

/-! ## Windows and their addresses (R71, R74) -/

theorem capacity_mod_four (p : Params) (b : Buffer) : capacity p b % 4 = 0 := by
  have := bufCap_bounds p
  have := carCap_bounds p
  cases b <;> simp only [capacity] <;> omega

theorem windowBase_mod_four (b : Buffer) : windowBase b % 4 = 0 := by cases b <;> rfl

/-- Four cells from an aligned index on lie in the buffer when the first does. -/
theorem aligned_word_fits {p : Params} {b : Buffer} {i : Nat} (hi : i < capacity p b) (h4 : i % 4 = 0) :
    i + 4 ≤ capacity p b := by
  have := capacity_mod_four p b
  omega

theorem inWindow_iff (p : Params) (b : Buffer) (a : Nat) :
    inWindow p b a = true ↔ windowBase b ≤ a ∧ a - windowBase b < capacity p b := by simp [inWindow]

/-- An address that names a cell is that cell's address, and the cell lies in the buffer. -/
theorem targetOf_eq_window {p : Params} {a : Word} {b : Buffer} {i : Nat} (h : targetOf p a = .window b i) :
    a.toNat = windowBase b + i ∧ i < capacity p b := by
  simp only [targetOf, inWindow_iff] at h
  split_ifs at h with hreg hmsg hct hcar <;> obtain ⟨rfl, rfl⟩ := Target.window.inj h
  · exact ⟨by omega, hmsg.2⟩
  · exact ⟨by omega, hct.2⟩
  · exact ⟨by omega, hcar.2⟩

theorem hostCheck_window {p : Params} {a : Word} {b : Buffer} {i : Nat} (h : targetOf p a = .window b i)
    (n : AccessSize) : hostCheck p a n = true ↔ n = .byte ∨ i % 4 = 0 := by
  have ha := (targetOf_eq_window h).1
  have hbase := windowBase_mod_four b
  have h4 : a.toNat % 4 = i % 4 := by omega
  simp [hostCheck, h, h4]

/-- A window write that the bus accepts stores inside the buffer (R92). -/
theorem writeBytes_fit {p : Params} {a : Word} {b : Buffer} {i : Nat} {n : AccessSize} (v : Word)
    (h : targetOf p a = .window b i) (hcheck : hostCheck p a n = true) :
    i + (writeBytes n v).length ≤ capacity p b := by
  have hi := (targetOf_eq_window h).2
  cases n with
  | byte => exact hi
  | word => exact aligned_word_fits hi (by simpa using (hostCheck_window h .word).mp hcheck)

/-! ## Every step keeps the invariant: one rule for each operation on the state -/

section Invariant

variable {s : State}

theorem coreInv_withEvents (h : CoreInv s) (rest : List Event) : CoreInv { s with events := rest } := { h with }

theorem coreInv_withAnswer (h : CoreInv s) (an : Option BusAnswer) : CoreInv { s with answer := an } := { h with }

theorem coreInv_dropWrite (h : CoreInv s) : CoreInv s.dropWrite := { h with }

theorem coreInv_putBlkOut (h : CoreInv s) (y : Block) : CoreInv (s.putBlkOut y) := { h with }

theorem coreInv_withMsgLen (h : CoreInv s) (v : Word) : CoreInv { s with msgLen := v } := { h with }

/-- A CT_LEN written is a CT_LEN with its flag set (R43). -/
theorem coreInv_writeCtLen (h : CoreInv s) (v : Word) : CoreInv (s.writeCtLen v) := { h with ctLen := nofun }

/-- An OFFSET written is an OFFSET with its flag set (R42). -/
theorem coreInv_writeOffset (h : CoreInv s) (v : Word) : CoreInv (s.writeOffset v) := { h with offset := nofun }

/-- The key word written has its mask bit set; the others and their bits stay (R185). -/
theorem coreInv_writeKey (h : CoreInv s) (w : Fin 4) (v : Word) : CoreInv (s.writeKey w v) := { h with
  key := fun w' hmask => by
    simp only [State.writeKey_keyMask, BitVec.getLsbD_or, Bool.or_eq_false_iff] at hmask
    obtain ⟨hold, hnew⟩ := hmask
    have hne : w' ≠ w := by
      rintro rfl
      simp at hnew
    simpa [hne] using h.key w' hold }

theorem coreInv_start (h : CoreInv s) (w : Word) : CoreInv (s.start w) := { h with
  code := rfl
  running := fun _ => ⟨rfl, rfl⟩ }

/-- A write of STATUS can only clear DONE (R183). -/
theorem coreInv_writeStatus (h : CoreInv s) (v : Word) : CoreInv (s.writeStatus v) := { h with
  running := fun hbusy => by
    obtain ⟨hdone, hcode⟩ := h.running hbusy
    exact ⟨by simp [hdone], hcode⟩ }

/-- A completion leaves the engine IDLE. -/
theorem coreInv_completed (h : CoreInv s) {code : ErrCode} (hcode : forbidden code = false) :
    CoreInv (s.completed code) := { h with
  code := hcode
  running := nofun }

/-- A store inside a buffer keeps every buffer canonical and in bounds (R90, R92). -/
theorem coreInv_memWrite (h : CoreInv s) {b : Buffer} {i : Nat} {vs : List Byte}
    (hfit : i + vs.length ≤ capacity s.params b) : CoreInv (s.memWrite b i vs) := by
  have hbuffers : ∀ b', BufferOk (s.memWrite b i vs) b' := by
    intro b'
    obtain ⟨hwf, hbelow⟩ := h.buffers b'
    unfold BufferOk
    rw [State.memWrite_params]
    by_cases hb : b' = b
    · subst hb
      rw [State.memWrite_buf_same]
      exact ⟨Memory.wf_writeRange _ _ _ hwf, Memory.below_writeRange _ _ _ _ hbelow hfit⟩
    · rw [State.memWrite_buf_other _ _ _ _ _ hb]
      exact ⟨hwf, hbelow⟩
  cases b <;> exact { h with buffers := hbuffers }

theorem coreInv_putCiphertext (h : CoreInv s) {y : List Byte} (hfit : y.length ≤ bufCap s.params) :
    CoreInv (s.putCiphertext y) :=
  coreInv_writeCtLen (coreInv_memWrite h (b := .ct) (by simpa [capacity] using hfit)) _

theorem coreInv_putPlaintext (h : CoreInv s) {r : List Byte} (hfit : r.length ≤ bufCap s.params - 1) :
    CoreInv (s.putPlaintext r) :=
  coreInv_withMsgLen (coreInv_memWrite h (b := .msg) (by simp only [capacity]; omega)) _

theorem coreInv_embedBits (h : CoreInv s) {o : Nat} {y : List Byte} (hfit : o + 8 * y.length ≤ carCap s.params) :
    CoreInv (s.embedBits o y) :=
  coreInv_memWrite h (by simpa [capacity] using hfit)

/-! ### Commands -/

/-- The ciphertext of a message that fits MSG fits CT (R92). -/
theorem paddedLen_msgLen_le (hmsg : s.msgLenTooBig = false) : paddedLen s.msgLen.toNat ≤ bufCap s.params :=
  (paddedLen_le _ _ ((msgLenTooBig_false s).mp hmsg)).1

/-- A payload that passes the placement check lies in the carrier (R92, R151). -/
theorem placement_fits (hcar : s.carLenTooBig = false)
    (hplace : placeCheck s.ctLen.toNat s.carLen.toNat s.offset.toNat = none) :
    s.offset.toNat + 8 * s.ctLen.toNat ≤ carCap s.params :=
  (placeCheck_none _ _ _ hplace).2.trans ((carLenTooBig_false s).mp hcar)

/-- The drawn placement lies in the carrier (R92, R153). -/
theorem hideOffset_fits (P : Ports) (hcar : s.carLenTooBig = false)
    (hroom : 8 * paddedLen s.msgLen.toNat ≤ s.carLen.toNat) :
    hideOffset P s + 8 * paddedLen s.msgLen.toNat ≤ carCap s.params := by
  have hdraw : hideOffset P s ≤ s.carLen.toNat - 8 * paddedLen s.msgLen.toNat := drawOffset_le ..
  have := (carLenTooBig_false s).mp hcar
  omega

/-- What a command computes has the invariant: each result it writes fits its buffer. -/
theorem coreInv_commandResult (h : CoreInv s) {i : Instr} {u : State} (hu : commandResult i s = .ok u) : CoreInv u := by
  cases i with
  | nop =>
    cases hu
    exact h
  | encBlock =>
    obtain ⟨-, rfl⟩ := encBlockWith_ok _ s u hu
    exact coreInv_putBlkOut h _
  | decBlock =>
    obtain ⟨-, rfl⟩ := decBlockWith_ok _ s u hu
    exact coreInv_putBlkOut h _
  | pad =>
    obtain ⟨hmsg, rfl⟩ := padResult_ok s u hu
    exact coreInv_putCiphertext h (by simpa [pad_length] using paddedLen_msgLen_le hmsg)
  | unpad =>
    obtain ⟨hct, hvalid, rfl⟩ := unpadResult_ok s u hu
    exact coreInv_putPlaintext h (unpad_length_le hvalid (by simp) hct)
  | encrypt =>
    obtain ⟨-, hmsg, rfl⟩ := encryptWith_ok _ s u hu
    exact coreInv_putCiphertext h ((hideCiphertext_length _ s).trans_le (paddedLen_msgLen_le hmsg))
  | decrypt =>
    obtain ⟨-, hct, -, hvalid, rfl⟩ := decryptWith_ok _ s u hu
    exact coreInv_putPlaintext h (unpad_length_le hvalid ((ecbDec_length_le _ _ _).trans (by simp)) hct)
  | embed =>
    obtain ⟨-, -, hcar, hplace, rfl⟩ := embedResult_ok s u hu
    exact coreInv_embedBits h (by simpa using placement_fits hcar hplace)
  | extract =>
    obtain ⟨-, hct, -, -, rfl⟩ := extractResult_ok s u hu
    exact coreInv_memWrite h (by simpa [capacity] using (ctLenTooBig_false s).mp hct)
  | hide =>
    obtain ⟨-, hmsg, hcar, hroom, rfl⟩ := hideWith_ok _ s u hu
    have hct := coreInv_putCiphertext h ((hideCiphertext_length Config.ports s).trans_le (paddedLen_msgLen_le hmsg))
    exact coreInv_embedBits (coreInv_writeOffset hct _) (by simpa using hideOffset_fits Config.ports hcar hroom)
  | reveal =>
    obtain ⟨-, -, hct, -, -, -, hvalid, rfl⟩ := revealWith_ok _ s u hu
    have hstore : CoreInv (s.memWrite .ct 0 (s.extractBits s.offset.toNat s.ctLen.toNat)) :=
      coreInv_memWrite h (by simpa [capacity] using (ctLenTooBig_false s).mp hct)
    exact coreInv_putPlaintext hstore (unpad_length_le hvalid ((ecbDec_length_le _ _ _).trans (by simp)) hct)

theorem coreInv_exec (h : CoreInv s) {i : Instr} {t : State} (ht : exec i s = .next t) : CoreInv t := by
  obtain ⟨u, hu, rfl⟩ | ⟨code, herr, rfl⟩ := exec_next ht
  · exact coreInv_completed (coreInv_commandResult h hu) rfl
  · exact coreInv_completed h (commandResult_error i s code herr)

theorem coreInv_engineStep (h : CoreInv s) {t : State} (ht : engineStep s = .next t) : CoreInv t := by
  obtain ⟨-, rfl⟩ | ⟨-, ⟨i, hexec⟩ | rfl⟩ := engineStep_next ht
  · exact h
  · exact coreInv_exec h hexec
  · exact coreInv_completed h rfl

/-! ### Host accesses and reset -/

theorem coreInv_writeReg (h : CoreInv s) (r : Reg) (v : Word) : CoreInv (writeReg s r v) := by
  cases r with
  | cmd => exact coreInv_start h v
  | status => exact coreInv_writeStatus h v
  | ctLen => exact coreInv_writeCtLen h v
  | offset => exact coreInv_writeOffset h v
  | key w => exact coreInv_writeKey h w v
  | _ => exact { h with }

theorem coreInv_writeEffect (h : CoreInv s) {a : Word} {n : AccessSize} (v : Word)
    (hcheck : hostCheck s.params a n = true) : CoreInv (writeEffect s a n v) := by
  unfold writeEffect
  cases htgt : targetOf s.params a with
  | reg off =>
    dsimp only
    split
    · exact coreInv_dropWrite h
    · exact coreInv_writeReg h _ v
  | window b i =>
    dsimp only
    split
    · exact coreInv_dropWrite h
    · exact coreInv_memWrite h (writeBytes_fit v htgt hcheck)
  | unmapped => exact h

theorem coreInv_hostAccess (h : CoreInv s) (a : HostAccess) : CoreInv (hostAccess s a) := by
  cases a with
  | read a n => exact { h with }
  | write a n v =>
    simp only [hostAccess, hostWrite]
    split
    · exact coreInv_withAnswer (coreInv_writeEffect h v ‹_›) _
    · exact coreInv_withAnswer h _

/-- A reset keeps the configuration, and empty buffers fit every capacity. -/
theorem coreInv_resetStep (s : State) : CoreInv s.resetStep :=
  have h : CoreInv State.reset := resetHasInvariant
  { h with buffers := fun b => by cases b <;> exact ⟨List.Pairwise.nil, nofun⟩ }

end Invariant

/-- Settles O10, by what the step is: a turn of the engine, a reset or a host access. -/
theorem everyStepKeepsInvariant : Obligations.EveryStepKeepsInvariant := by
  intro s t hs h
  obtain ⟨rest, -, heng⟩ | ⟨rest, -, rfl⟩ | ⟨a, rest, -, rfl⟩ := step_next h
  · exact coreInv_engineStep (coreInv_withEvents hs rest) heng
  · exact coreInv_resetStep _
  · exact coreInv_hostAccess (coreInv_withEvents hs rest) a

/-! ## Window accesses while IDLE (R190, R191) -/

section Window

variable {s : State} {b : Buffer} {i : Nat} {n : AccessSize}

/-- A window write that the bus accepts stores its bytes (R190). -/
theorem step_writeWindow (hidle : s.eng = .idle) (hi : i < capacity s.params b) (hsize : n = .byte ∨ i % 4 = 0)
    (v : Word) : step (withAccess s (.write (windowAddr b i) n v))
      = .next { s.memWrite b i (writeBytes n v) with answer := some .writeOkay } := by
  have htgt := targetOf_windowAddr s.params b i hi
  simp [step_withAccess, hostAccess, hostWrite, writeEffect, htgt, (hostCheck_window htgt n).mpr hsize, State.busy, hidle]

/-- A window read that the bus accepts answers the cells' bytes (R191). -/
theorem step_readWindow (hidle : s.eng = .idle) (hi : i < capacity s.params b) (hsize : n = .byte ∨ i % 4 = 0) :
    step (withAccess s (.read (windowAddr b i) n))
      = .next { s with answer := some (.readOkay (readWindow s b i n)), tick := s.tick + 1 } := by
  have htgt := targetOf_windowAddr s.params b i hi
  simp [step_withAccess, hostAccess, hostRead, readValue, htgt, (hostCheck_window htgt n).mpr hsize, State.busy, hidle]

/-- Lane `k` of a word read is the byte at index `i + k` (R74). -/
theorem lane_readWindow_word (s : State) (b : Buffer) (i : Nat) {k : Nat} (hk : k < 4) :
    lane (readWindow s b i .word) k = s.readByte b (i + k) := by
  obtain ⟨h0, h1, h2, h3⟩ := lane_wordOf (s.readByte b i) (s.readByte b (i + 1)) (s.readByte b (i + 2)) (s.readByte b (i + 3))
  match k, hk with
  | 0, _ => exact h0
  | 1, _ => exact h1
  | 2, _ => exact h2
  | 3, _ => exact h3

/-- Byte `k` that a word write stores is lane `k` of the word (R74). -/
theorem writeBytes_word_getElem (v : Word) {k : Nat} (hk : k < 4) : (writeBytes .word v)[k] = lane v k := by
  match k, hk with
  | 0, _ => rfl
  | 1, _ => rfl
  | 2, _ => rfl
  | 3, _ => rfl

/-- A byte stored is the byte read at its index next, whatever the bus answered. -/
theorem readByte_stored (s : State) (b : Buffer) (i : Nat) (vs : List Byte) (an : Option BusAnswer) {k : Nat}
    (hk : k < vs.length) : ({ s.memWrite b i vs with answer := an } : State).readByte b (i + k) = vs[k] := by
  have hread : ((s.memWrite b i vs).buf b).read (i + k) = some vs[k] := by
    rw [State.memWrite_buf_same, Memory.read_writeRange_inside _ _ _ _ hk]
  exact State.readByte_written _ b _ _ hread

end Window

/-- A byte written is seen in its lane of the aligned word (R76). -/
theorem byteWrite_seen_in_word {s : State} {b : Buffer} {i : Nat} (v : Word) (hidle : s.eng = .idle)
    (hi : i < capacity s.params b) :
    ∃ t d, step (withAccess s (.write (windowAddr b i) .byte v)) = .next t
      ∧ step (withAccess t (.read (windowAddr b (i - i % 4)) .word))
          = .next { t with answer := some (.readOkay d), tick := t.tick + 1 }
      ∧ lane d (i % 4) = lane v 0 := by
  refine ⟨_, _, step_writeWindow hidle hi (.inl rfl) v,
    step_readWindow (by simpa using hidle) (by simp only [State.memWrite_params]; omega) (.inr (by omega)), ?_⟩
  rw [lane_readWindow_word _ _ _ (Nat.mod_lt i (by decide)), Nat.sub_add_cancel (Nat.mod_le i 4)]
  exact readByte_stored s b i (writeBytes .byte v) _ (k := 0) Nat.zero_lt_one

/-- Each byte of a word written is seen at its own address (R76). -/
theorem wordWrite_seen_in_bytes {s : State} {b : Buffer} {i k : Nat} (v : Word) (hidle : s.eng = .idle)
    (hi : i < capacity s.params b) (h4 : i % 4 = 0) (hk : k < 4) :
    ∃ t, step (withAccess s (.write (windowAddr b i) .word v)) = .next t
      ∧ step (withAccess t (.read (windowAddr b (i + k)) .byte))
          = .next { t with answer := some (.readOkay ((lane v k).setWidth 32)), tick := t.tick + 1 } := by
  have hfit := aligned_word_fits hi h4
  refine ⟨_, step_writeWindow hidle hi (.inr h4) v, ?_⟩
  rw [step_readWindow (by simpa using hidle) (by simp only [State.memWrite_params]; omega) (.inl rfl), readWindow,
    readByte_stored s b i (writeBytes .word v) _ hk, writeBytes_word_getElem v hk]

/-- Settles O53: an access of either size reads and writes the cells of one buffer. -/
theorem mixedWidthViews : Obligations.MixedWidthViews :=
  fun _ _ _ v hidle hi => ⟨byteWrite_seen_in_word v hidle hi, fun h4 _ hk => wordWrite_seen_in_bytes v hidle hi h4 hk⟩

/-! ## A running command's inputs (R87, R182) -/

theorem writableBusy_iff (r : Reg) : writableBusy r = true ↔ r = .status ∨ r = .irqen := by simp [writableBusy]

/-- A write while BUSY is dropped, or is one of STATUS or IRQEN (R182 to R184). -/
theorem writeEffect_busy {s : State} (hbusy : s.eng = .busy) (a : Word) (n : AccessSize) (v : Word) :
    writeEffect s a n v = s ∨ writeEffect s a n v = s.dropWrite
      ∨ writeEffect s a n v = s.writeStatus v ∨ writeEffect s a n v = s.writeIrqen v := by
  have hb : s.busy = true := by simp [State.busy, hbusy]
  cases htgt : targetOf s.params a with
  | reg off =>
    cases hmay : writableBusy (regAt off)
    · exact .inr (.inl (by simp [writeEffect, htgt, hb, hmay]))
    · refine .inr (.inr (((writableBusy_iff _).mp hmay).imp (fun hr => ?_) fun hr => ?_)) <;>
        simp [writeEffect, htgt, hr, writableBusy, writeReg]
  | window b i => exact .inr (.inl (by simp [writeEffect, htgt, hb]))
  | unmapped => exact .inl (by simp [writeEffect, htgt])

/-- What a host access while BUSY can change. -/
theorem hostAccess_busy {s : State} (hbusy : s.eng = .busy) (a : HostAccess) :
    ∃ d bw ie an tk,
      hostAccess s a = { s with done := d, busyWr := bw, doneIe := ie, answer := an, tick := tk } := by
  cases a with
  | read a n => exact ⟨_, _, _, _, _, rfl⟩
  | write a n v =>
    simp only [hostAccess, hostWrite]
    split
    · obtain heq | heq | heq | heq := writeEffect_busy hbusy a n v <;> rw [heq] <;> exact ⟨_, _, _, _, _, rfl⟩
    · exact ⟨_, _, _, _, _, rfl⟩

/-- Settles O55. -/
theorem runningCommandSeesItsInputs : Obligations.RunningCommandSeesItsInputs := by
  intro s t a hbusy h
  obtain ⟨d, bw, ie, an, tk, heq⟩ := hostAccess_busy hbusy a
  obtain rfl : hostAccess s a = t := Host.Outcome.next.inj h
  rw [heq]

end Sys2Proof.Proofs

/-! The encoding of commands (30_encoding.md): decoder and encoder agree, a step runs the command CMD holds, a write of CMD
starts it, and a started command completes. -/

namespace Sys2Proof.Proofs

open Sys2Proof Sys2Proof.Machine Sys2Proof.Safety

/-! ## The fields of a command word (R100) -/

theorem opField_lt (w : Word) : opField w < 16 := (w.extractLsb' 0 4).isLt

/-- A word is its RSV field above its OP field. -/
theorem toNat_eq_fields (w : Word) : w.toNat = 16 * rsvField w + opField w := by
  have hop : opField w = w.toNat % 16 := by simp [opField]
  have hrsv : rsvField w = w.toNat / 16 := by
    have := w.isLt
    simp only [rsvField, BitVec.extractLsb'_toNat, Nat.shiftRight_eq_div_pow]
    omega
  omega

theorem rsvField_eq_zero_iff (w : Word) : rsvField w = 0 ↔ w.extractLsb' 4 28 = 0 := by
  simp [rsvField, BitVec.toNat_eq]

/-! ## The opcode table (R103) -/

theorem encode_toNat_le (i : Instr) : (encode i).toNat ≤ 0xA := by cases i <;> decide

/-- An operation number is a command's exactly when it is that command's word, read as a number. -/
theorem commandOf_eq_some_iff (op : Nat) (i : Instr) : commandOf op = some i ↔ op = (encode i).toNat := by
  constructor
  · intro h
    simp only [commandOf] at h
    split at h <;> cases h <;> rfl
  · rintro rfl
    cases i <;> rfl

theorem commandOf_of_le {op : Nat} (h : op ≤ 0xA) : ∃ i, commandOf op = some i := by
  interval_cases op <;> exact ⟨_, rfl⟩

theorem commandOf_of_gt {op : Nat} (h : 0xA < op) : commandOf op = none := by
  rw [Option.eq_none_iff_forall_ne_some]
  intro i hi
  have := (commandOf_eq_some_iff op i).mp hi
  have := encode_toNat_le i
  omega

/-! ## The decoder, one equation for each outcome (R101) -/

theorem decode_reservedBits {w : Word} (hrsv : rsvField w ≠ 0) : decode w = .error .reservedBits := by
  simp [decode, hrsv]

theorem decode_reservedOp {w : Word} (hrsv : rsvField w = 0) (hop : 0xA < opField w) :
    decode w = .error .reservedOp := by
  simp [decode, hrsv, commandOf_of_gt hop]

theorem decode_of_commandOf {w : Word} {i : Instr} (hrsv : rsvField w = 0) (hop : commandOf (opField w) = some i) :
    decode w = .ok i := by
  simp [decode, hrsv, hop]

/-- A word decodes to a command exactly when its RSV is 0 and its OP is the command's number. -/
theorem decode_eq_ok_iff (w : Word) (i : Instr) : decode w = .ok i ↔ rsvField w = 0 ∧ opField w = (encode i).toNat := by
  rw [← commandOf_eq_some_iff]
  refine ⟨fun h => ?_, fun ⟨hrsv, hop⟩ => decode_of_commandOf hrsv hop⟩
  by_cases hrsv : rsvField w = 0
  · cases hop : commandOf (opField w) with
    | some j => exact ⟨hrsv, congrArg some (Except.ok.inj ((decode_of_commandOf hrsv hop).symm.trans h))⟩
    | none => simp [decode, hrsv, hop] at h
  · exact nomatch (decode_reservedBits hrsv).symm.trans h

/-- Settles O2: RSV 0 and OP the command's number leave one word, the command's own. -/
theorem decodeExactlyTheEncodedWords : Obligations.DecodeExactlyTheEncodedWords := by
  intro w i
  have hfields := toNat_eq_fields w
  have hlt := opField_lt w
  have hle := encode_toNat_le i
  rw [decode_eq_ok_iff, BitVec.toNat_eq]
  omega

theorem decode_encode (i : Instr) : decode (encode i) = .ok i := (decodeExactlyTheEncodedWords (encode i) i).mpr rfl

/-- Settles O1: the six words are encodings; 0xB has no command's OP, and 0x11 a nonzero RSV. -/
theorem decodeReadsTableWords : Obligations.DecodeReadsTableWords :=
  ⟨decode_encode .nop, decode_encode .decBlock, decode_encode .unpad, decode_encode .decrypt, decode_encode .extract,
    decode_encode .reveal, decode_reservedOp (by decide) (by decide), decode_reservedBits (by decide)⟩

theorem decode_of_fields {w : Word} (hrsv : rsvField w = 0) (hop : opField w ≤ 0xA) :
    ∃ i, decode w = .ok i ∧ (encode i).toNat = opField w := by
  obtain ⟨i, hi⟩ := commandOf_of_le hop
  exact ⟨i, decode_of_commandOf hrsv hi, ((commandOf_eq_some_iff _ i).mp hi).symm⟩

theorem decode_illegal {w : Word} (h : ¬ (rsvField w = 0 ∧ opField w ≤ 0xA)) : ∃ e, decode w = .error e := by
  by_cases hrsv : rsvField w = 0
  · exact ⟨_, decode_reservedOp hrsv (by omega)⟩
  · exact ⟨_, decode_reservedBits hrsv⟩

/-! ## The completion step (R109, R112) -/

theorem engineStep_decoded {s : State} {i : Instr} (hbusy : s.eng = .busy) (hdec : decode s.cmd = .ok i) :
    engineStep s = exec i s := by
  simp [engineStep, hbusy, hdec]

theorem engineStep_illegal {s : State} {e : Illegal} (hbusy : s.eng = .busy) (hdec : decode s.cmd = .error e) :
    engineStep s = .next (s.completed .illegalCommand) := by
  simp [engineStep, hbusy, hdec, complete_next _ s (show forbidden .illegalCommand = false from rfl)]

/-- Settles O4: the engine's turn is the step of the state without its event. -/
theorem stepRunsTheDecodedCommand : Obligations.StepRunsTheDecodedCommand := by
  intro s rest i hbusy hturn hdec _
  rw [step_engineTurn s rest hturn]
  exact engineStep_decoded (s := { s with events := rest }) hbusy hdec

/-- Settles O3, from the decoder's equations and the two outcomes of the engine's turn. -/
theorem decodeFollowsFields : Obligations.DecodeFollowsFields := by
  simp only [Obligations.DecodeFollowsFields, ← rsvField_eq_zero_iff]
  refine ⟨fun w ⟨hrsv, hop⟩ => decode_of_fields hrsv hop, fun w hnot => decode_illegal hnot,
    fun s rest hbusy hturn => ⟨fun i hdec => ?_, fun e hdec => ?_⟩⟩
  · exact stepRunsTheDecodedCommand s rest i hbusy hturn hdec rfl
  · rw [step_engineTurn s rest hturn]
    exact engineStep_illegal (s := { s with events := rest }) hbusy hdec

/-- A BUSY engine's turn always completes, whatever the command and its code, and leaves CMD and the pending events. -/
theorem engineStep_completes {s : State} (hbusy : s.eng = .busy) :
    ∃ (u : State) (code : ErrCode), engineStep s = .next (u.completed code) ∧ u.cmd = s.cmd := by
  obtain ⟨i, -, hrun⟩ | ⟨-, hill⟩ := engineStep_busy s hbusy
  · cases hres : commandResult i s with
    | ok u =>
      obtain ⟨-, hcmd, -⟩ := commandResult_frame i s u hres
      exact ⟨u, .ok, by rw [hrun, hres, finish_ok], hcmd⟩
    | error code =>
      exact ⟨s, code, by rw [hrun, hres, finish_error s code (commandResult_error i s code hres)], rfl⟩
  · exact ⟨s, .illegalCommand, hill, rfl⟩

theorem step_completes {s : State} {rest : List Event} (hbusy : s.eng = .busy) (hturn : EngineTurn s rest) :
    ∃ (u : State) (code : ErrCode), step s = .next (u.completed code) ∧ u.cmd = s.cmd := by
  rw [step_engineTurn s rest hturn]
  exact engineStep_completes (s := { s with events := rest }) hbusy

/-- Settles O12: the completion fields, and STATUS bits 0 and 1 as the views of two of them. -/
theorem completionLeavesIdleDoneAndCmd : Obligations.CompletionLeavesIdleDoneAndCmd := by
  intro s t rest hbusy hturn h
  obtain ⟨u, code, hstep, hcmd⟩ := step_completes hbusy hturn
  obtain rfl : u.completed code = t := Host.Outcome.next.inj (hstep.symm.trans h)
  exact ⟨rfl, statusLayout _ 0, rfl, statusLayout _ 1, hcmd⟩

/-! ## A started command completes (R108, R231) -/

/-- The next step ends the running command, by its completion or by a reset. -/
def EndsNow (u : State) : Prop := ∃ t, step u = .next t ∧ t.eng = .idle ∧ (t.done = true ∨ u.events.head? = some .rst)

theorem endsNow_of_engineTurn {s : State} {rest : List Event} (hbusy : s.eng = .busy) (hturn : EngineTurn s rest) :
    EndsNow s := by
  obtain ⟨u, code, hstep, -⟩ := step_completes hbusy hturn
  exact ⟨_, hstep, rfl, .inl rfl⟩

theorem step_reset {s : State} {rest : List Event} (hev : s.events = .rst :: rest) :
    step s = .next (State.resetStep { s with events := rest }) := by
  simp [step, hev, stepEvent]

theorem step_access {s : State} {a : HostAccess} {rest : List Event} (hev : s.events = .access a :: rest) :
    step s = .next (hostAccess { s with events := rest } a) := by
  simp [step, hev, stepEvent]

theorem endsNow_of_reset {s : State} {rest : List Event} (hev : s.events = .rst :: rest) : EndsNow s :=
  ⟨_, step_reset hev, rfl, .inr (by rw [hev]; rfl)⟩

/-- A host access while BUSY leaves the command running and takes one event off. -/
theorem step_access_busy {s : State} {a : HostAccess} {rest : List Event} (hbusy : s.eng = .busy)
    (hev : s.events = .access a :: rest) :
    ∃ t, step s = .next t ∧ t.eng = .busy ∧ t.cmd = s.cmd ∧ t.events = rest := by
  obtain ⟨d, bw, ie, an, tk, heq⟩ := hostAccess_busy (s := { s with events := rest }) hbusy a
  refine ⟨_, step_access hev, ?_⟩
  rw [heq]
  exact ⟨hbusy, rfl, rfl⟩

theorem core_run_succ {s t : State} (k : Nat) (h : step s = .next t) :
    Host.Core.run Sys2Proof.core (k + 1) s = Host.Core.run Sys2Proof.core k t := by
  have hcore : Sys2Proof.core.step s = .next t := h
  simp only [Host.Core.run, hcore]

/-- By induction on the pending events: only host accesses can come before the end. -/
theorem run_reaches_end (evs : List Event) (s : State) (hevs : s.events = evs) (hbusy : s.eng = .busy) :
    ∃ k u, k ≤ evs.length ∧ Host.Core.run Sys2Proof.core k s = .next u ∧ u.eng = .busy ∧ u.cmd = s.cmd ∧ EndsNow u := by
  induction evs generalizing s with
  | nil => exact ⟨0, s, Nat.le_refl 0, rfl, hbusy, rfl, endsNow_of_engineTurn hbusy (.inl ⟨hevs, rfl⟩)⟩
  | cons e rest ih =>
    cases e with
    | engine => exact ⟨0, s, Nat.zero_le _, rfl, hbusy, rfl, endsNow_of_engineTurn hbusy (.inr hevs)⟩
    | rst => exact ⟨0, s, Nat.zero_le _, rfl, hbusy, rfl, endsNow_of_reset hevs⟩
    | access a =>
      obtain ⟨t, hstep, htbusy, htcmd, htev⟩ := step_access_busy hbusy hevs
      obtain ⟨k, u, hk, hrun, hubusy, hucmd, hend⟩ := ih t htev htbusy
      exact ⟨k + 1, u, Nat.succ_le_succ hk, (core_run_succ k hstep).trans hrun, hubusy, hucmd.trans htcmd, hend⟩

/-- Settles O8. -/
theorem startedCommandCompletes : Obligations.StartedCommandCompletes := by
  intro s hbusy
  obtain ⟨k, u, hk, hrun, hubusy, hcmd, t, hstep, hidle, hend⟩ := run_reaches_end s.events s rfl hbusy
  exact ⟨k, u, t, hk, hrun, hubusy, hcmd, hstep, hidle, hend⟩

/-! ## A write of CMD (R107) -/

/-- A write of an aligned word in region REG answers OKAY; while BUSY it is dropped, but for STATUS and IRQEN (R181, R182). -/
theorem hostAccess_writeReg (s : State) {a : Word} (hreg : a.toNat < 0x100) (h4 : a.toNat % 4 = 0) (v : Word) :
    hostAccess s (.write a .word v) =
      { (if s.busy && !writableBusy (regAt a.toNat) then s.dropWrite else writeReg s (regAt a.toNat) v) with
        answer := some .writeOkay } := by
  have hcheck : hostCheck s.params a .word = true := by simp [hostCheck, targetOf_reg _ _ hreg, h4]
  simp only [hostAccess, hostWrite, hcheck, if_true, writeEffect, targetOf_reg _ _ hreg]

/-- Settles O47: CMD is no register the host may write while BUSY. -/
theorem commandStart : Obligations.CommandStart := by
  intro s w
  have hreg : regAt (0x0C : Word).toNat = .cmd := rfl
  rw [step_withAccess, hostAccess_writeReg s (by decide) (by decide), hreg]
  exact ⟨fun hidle => by simp [State.busy, hidle, writeReg, State.start],
    fun hbusy => by simp [State.busy, hbusy, writableBusy, State.dropWrite]⟩

end Sys2Proof.Proofs

/-! The block-cipher wrapper (40_cipher.md): what ENC_BLOCK and DEC_BLOCK write, and why a cipher's left inverse is also its
right inverse. -/

namespace Sys2Proof.Proofs

open Sys2Proof Sys2Proof.Machine Sys2Proof.Safety

/-! ## From a command's result to its completion step (R111, R112) -/

theorem exec_of_commandResult_ok {i : Instr} {s u : State} (h : commandResult i s = .ok u) :
    exec i s = .next (u.completed .ok) := by
  rw [exec_eq_finish, h, finish_ok]

theorem failsWith_of_commandResult_error {i : Instr} {s : State} {code : ErrCode} (h : commandResult i s = .error code) :
    FailsWith i s code := by
  rw [FailsWith, exec_eq_finish, h, finish_error s code (commandResult_error i s code h), State.completed]

/-! ## One block through BLK_OUT (R55, R122, R123) -/

/-- The bytes of four registers made from 16 bytes are those bytes: byte `k` is lane `k % 4` of register `k / 4`. -/
@[simp] theorem Quad.bytes_ofBytes (y : Block) : (Quad.ofBytes y).bytes = y := by
  ext k hk : 1
  have hbyte : (Quad.ofBytes y).bytes[4 * (k / 4) + k % 4] = y[4 * (k / 4) + k % 4] :=
    (Quad.bytes_getElem _ ⟨k / 4, by omega⟩ ⟨k % 4, by omega⟩).trans
      (Quad.lane_ofBytes y ⟨k / 4, by omega⟩ ⟨k % 4, by omega⟩)
  simpa only [Nat.div_add_mod] using hbyte

/-- A command that checks the key and then puts the block `y` in BLK_OUT does nothing else. -/
theorem blockCommand_result {i : Instr} {s : State} {y : Block}
    (hrun : commandResult i s = if !s.keyLoaded then .error .invalidKeyLength else .ok (s.putBlkOut y)) :
    if s.keyMask ≠ 0xF#4 then FailsWith i s .invalidKeyLength
    else ∃ t, exec i s = .next t
      ∧ t = { s with blkOut := t.blkOut, eng := .idle, done := true, errCode := .ok, tick := s.tick + 1 }
      ∧ t.blkOut.bytes = y := by
  split
  case isTrue hmask =>
    have hkey : s.keyLoaded = false := Bool.eq_false_iff.mpr (mt (keyLoaded_true s).mp hmask)
    exact failsWith_of_commandResult_error (by simp [hrun, hkey])
  case isFalse hmask =>
    have hkey : s.keyLoaded = true := (keyLoaded_true s).mpr (not_not.mp hmask)
    have hok : commandResult i s = .ok (s.putBlkOut y) := by simp [hrun, hkey]
    exact ⟨_, exec_of_commandResult_ok hok, rfl, Quad.bytes_ofBytes y⟩

/-- Settles O19: ENC_BLOCK puts `E(K, BLK_IN)` in BLK_OUT. -/
theorem encBlockResult : Obligations.EncBlockResult :=
  fun s => blockCommand_result (i := .encBlock) (s := s) rfl

/-- Settles O20: DEC_BLOCK puts `D(K, BLK_IN)` in BLK_OUT. -/
theorem decBlockResult : Obligations.DecBlockResult :=
  fun s => blockCommand_result (i := .decBlock) (s := s) rfl

/-! ## The cipher is a bijection of the blocks (R125) -/

/-- A block is determined by its 16 bytes, so there are finitely many. -/
theorem finite_block : Finite Block :=
  Finite.of_injective (fun (B : Block) (k : Fin 16) => B[k]) fun _ _ hbytes =>
    Vector.ext fun k hk => congrFun hbytes ⟨k, hk⟩

/-- Settles O32: under a key, `E` has a left inverse, so it is injective; on finitely many blocks it is then surjective,
and the left inverse of a surjection is its right inverse. -/
theorem cipherInverseBothWays : Obligations.CipherInverseBothWays := by
  intro P hinv K
  have hleft : Function.LeftInverse (P.decipher K) (P.encipher K) := hinv K
  have : Finite Block := finite_block
  have hsurj : Function.Surjective (P.encipher K) := Finite.surjective_of_injective hleft.injective
  exact hleft.rightInverse_of_surjective hsurj

end Sys2Proof.Proofs

/-! The padding codec (41_padding.md): what PAD and UNPAD write, and why UNPAD restores what PAD padded. The laws of the two
result operations and of padding validity speak of any sequence, so they serve ENCRYPT, DECRYPT, HIDE and REVEAL too. -/

namespace Sys2Proof.Proofs

open Sys2Proof Sys2Proof.Machine Sys2Proof.Safety

/-! ## A sequence put into CT or MSG (R133, R134) -/

/-- The length of a sequence that fits a buffer fits a length register (R32, R33). -/
theorem toNat_ofNat_of_le_bufCap {p : Params} {n : Nat} (hfit : n ≤ bufCap p) : (BitVec.ofNat 32 n).toNat = n := by
  have := bufCap_bounds p
  rw [BitVec.toNat_ofNat, Nat.mod_eq_of_lt (by omega)]

/-- Inside the sequence, a buffer written from cell 0 holds its bytes. -/
theorem read_writeRange_zero (m : Memory) (vs : List Byte) {a : Nat} (ha : a < vs.length) :
    (m.writeRange 0 vs).read a = some vs[a] := by
  simpa using Memory.read_writeRange_inside m 0 vs a ha

theorem sameOutside_writeRange (m : Memory) (i : Nat) (vs : List Byte) :
    SameOutside m (m.writeRange i vs) i vs.length :=
  Memory.read_writeRange_outside m i vs

theorem memRead_zero_getElem (s : State) (b : Buffer) (n : Nat) {a : Nat} (ha : a < (s.memRead b 0 n).length) :
    (s.memRead b 0 n)[a] = s.readByte b a := by
  rw [State.memRead_getElem s b 0 n a (by simpa using ha), Nat.zero_add]

/-- Cells that hold the bytes of a sequence read as that sequence, whatever the step's draws are (R89). -/
theorem memRead_eq_of_written {s : State} {b : Buffer} {vs : List Byte}
    (hcells : ∀ a, (ha : a < vs.length) → (s.buf b).read a = some vs[a]) : s.memRead b 0 vs.length = vs := by
  refine List.ext_getElem (State.memRead_length ..) fun a _ ha => ?_
  rw [memRead_zero_getElem]
  exact State.readByte_written s b a _ (hcells a ha)

/-- A command that puts a sequence in CT and CT_LEN does nothing else; `c` is the sequence's length, `cell` gives its bytes. -/
theorem putCiphertext_result {i : Instr} {s : State} {y : List Byte} {c : Nat} {cell : Nat → Byte}
    (hrun : commandResult i s = .ok (s.putCiphertext y)) (hlen : y.length = c) (hfit : c ≤ bufCap s.params)
    (hcell : ∀ a, (ha : a < y.length) → y[a] = cell a) :
    ∃ t, exec i s = .next t
      ∧ t = { s with ct := t.ct, ctLen := t.ctLen, lenValid := true, eng := .idle, done := true, errCode := .ok, tick := s.tick + 1 }
      ∧ t.ctLen.toNat = c
      ∧ (∀ a, a < c → t.ct.read a = some (cell a))
      ∧ SameOutside s.ct t.ct 0 c := by
  subst hlen
  refine ⟨_, exec_of_commandResult_ok hrun, rfl, toNat_ofNat_of_le_bufCap hfit, fun a ha => ?_,
    sameOutside_writeRange s.ct 0 y⟩
  exact hcell a ha ▸ read_writeRange_zero s.ct y ha

/-- A command that puts a sequence in MSG and MSG_LEN does nothing else; `k` is the sequence's length, `cell` gives its bytes. -/
theorem putPlaintext_result {i : Instr} {s : State} {r : List Byte} {k : Nat} {cell : Nat → Byte}
    (hrun : commandResult i s = .ok (s.putPlaintext r)) (hlen : r.length = k) (hfit : k ≤ bufCap s.params)
    (hcell : ∀ a, (ha : a < r.length) → r[a] = cell a) :
    ∃ t, exec i s = .next t
      ∧ t = { s with msg := t.msg, msgLen := t.msgLen, eng := .idle, done := true, errCode := .ok, tick := s.tick + 1 }
      ∧ t.msgLen.toNat = k
      ∧ (∀ a, a < k → t.msg.read a = some (cell a))
      ∧ SameOutside s.msg t.msg 0 k := by
  subst hlen
  refine ⟨_, exec_of_commandResult_ok hrun, rfl, toNat_ofNat_of_le_bufCap hfit, fun a ha => ?_,
    sameOutside_writeRange s.msg 0 r⟩
  exact hcell a ha ▸ read_writeRange_zero s.msg r ha

/-! ## Padding by index (R130 to R132) -/

/-- The padding length survives its 8-bit indicator. -/
theorem toNat_indicator (m : Nat) : (BitVec.ofNat 8 (16 - m % 16)).toNat = padLen m := by
  rw [BitVec.toNat_ofNat, padLen]
  omega

/-- The padded form of what a buffer holds is `paddedCell` of its cells. -/
theorem pad_memRead_getElem (s : State) (b : Buffer) (m : Nat) {a : Nat} (ha : a < (pad (s.memRead b 0 m)).length) :
    (pad (s.memRead b 0 m))[a] = paddedCell (s.readByte b) m a := by
  rw [pad_getElem, paddedCell]
  by_cases hmsg : a < m
  · rw [dif_pos (by simpa using hmsg), if_pos hmsg, memRead_zero_getElem]
  · rw [dif_neg (by simpa using hmsg), if_neg hmsg, State.memRead_length]

/-- The model's `unpadValid` of a sequence is `PaddingValid` of its cells, for every function that gives its bytes. -/
theorem unpadValid_iff_paddingValid {q : List Byte} {cell : Nat → Byte} (hcell : ∀ a, (ha : a < q.length) → q[a] = cell a) :
    unpadValid q = true ↔ PaddingValid cell q.length (cell (q.length - 1)).toNat := by
  obtain rfl | hne := eq_or_ne q []
  · simp [unpadValid, PaddingValid]
  · have hpos : 0 < q.length := List.length_pos_of_ne_nil hne
    rw [unpadValid_iff, getLast?_eq_getElem_pred q hpos, hcell _ (by omega)]
    simp only [Option.some.injEq, exists_eq_left']
    constructor
    · rintro ⟨hone, hle, hfit, hsame⟩
      refine ⟨hpos, rfl, hone, hle, hfit, fun t ht => ?_⟩
      rw [← hcell _ (by omega)]
      exact hsame _ (by omega) (by omega)
    · rintro ⟨-, -, hone, hle, hfit, hsame⟩
      refine ⟨hone, hle, hfit, fun t ht hge => ?_⟩
      have hcut := hsame (t - (q.length - (cell (q.length - 1)).toNat)) (by omega)
      rwa [Nat.add_sub_cancel' hge, ← hcell t ht] at hcut

/-- Every padded sequence ends in the indicator of its own padding length. -/
theorem pad_getElem_last (q : List Byte) (h : (pad q).length - 1 < (pad q).length) :
    (pad q)[(pad q).length - 1] = BitVec.ofNat 8 (16 - q.length % 16) := by
  rw [pad_getElem, dif_neg]
  rw [pad_length, paddedLen]
  omega

theorem pad_length_eq_add (q : List Byte) : (pad q).length = q.length + padLen q.length := by
  simp [pad]

theorem unpadValid_pad (q : List Byte) : unpadValid (pad q) = true := by
  obtain ⟨hone, hle⟩ := padLen_pos q.length
  have hlen := pad_length_eq_add q
  refine (unpadValid_iff (pad q)).mpr ⟨BitVec.ofNat 8 (16 - q.length % 16), ?_, ?_⟩
  · rw [getLast?_eq_getElem_pred _ (by omega), pad_getElem_last]
  · rw [toNat_indicator]
    refine ⟨hone, hle, by omega, fun t ht hge => ?_⟩
    rw [pad_getElem, dif_neg (by omega)]

/-- Un-padding cuts off exactly the padding (R135). -/
theorem unpad_pad (q : List Byte) : unpad (pad q) = q := by
  obtain ⟨hone, -⟩ := padLen_pos q.length
  have hlen := pad_length_eq_add q
  rw [unpad_eq_take _ (by omega), pad_getElem_last, toNat_indicator, hlen, Nat.add_sub_cancel, pad, List.take_left]

/-! ## The checks of PAD and UNPAD (R133, R134) -/

theorem msgLenTooBig_true (s : State) : s.msgLenTooBig = true ↔ s.msgLen.toNat > bufCap s.params - 1 := by
  simp [State.msgLenTooBig]

theorem ctLenTooBig_true (s : State) : s.ctLenTooBig = true ↔ s.ctLen.toNat > bufCap s.params := by
  simp [State.ctLenTooBig]

theorem commandResult_pad_tooBig {s : State} (h : s.msgLenTooBig = true) :
    commandResult .pad s = .error .lengthOutOfRange := by
  simp [commandResult, padResult, h]

theorem commandResult_pad_fits {s : State} (h : s.msgLenTooBig = false) :
    commandResult .pad s = .ok (s.putCiphertext (pad (s.memRead .msg 0 s.msgLen.toNat))) := by
  simp [commandResult, padResult, h]

theorem commandResult_unpad_tooBig {s : State} (h : s.ctLenTooBig = true) :
    commandResult .unpad s = .error .lengthOutOfRange := by
  simp [commandResult, unpadResult, h]

theorem commandResult_unpad_invalid {s : State} (h : s.ctLenTooBig = false)
    (hval : unpadValid (s.memRead .ct 0 s.ctLen.toNat) = false) : commandResult .unpad s = .error .invalidPadding := by
  simp [commandResult, unpadResult, h, hval]

theorem commandResult_unpad_valid {s : State} (h : s.ctLenTooBig = false)
    (hval : unpadValid (s.memRead .ct 0 s.ctLen.toNat) = true) :
    commandResult .unpad s = .ok (s.putPlaintext (unpad (s.memRead .ct 0 s.ctLen.toNat))) := by
  simp [commandResult, unpadResult, h, hval]

/-! ## PAD and UNPAD -/

/-- The padding of the message, whose length R133 spells out. -/
theorem pad_memRead_length (s : State) (b : Buffer) (m : Nat) : (pad (s.memRead b 0 m)).length = 16 * (m / 16 + 1) := by
  rw [pad_length, State.memRead_length, paddedLen]

/-- Settles O21: CT holds the padded message, which fits it, and the completion adds its own fields. -/
theorem padResult : Obligations.PadResult := by
  intro s m c
  split
  case isTrue hbig =>
    exact failsWith_of_commandResult_error (commandResult_pad_tooBig ((msgLenTooBig_true s).mpr hbig))
  case isFalse hfit =>
    have hmsg : s.msgLenTooBig = false := (msgLenTooBig_false s).mpr (not_lt.mp hfit)
    exact putCiphertext_result (commandResult_pad_fits hmsg) (pad_memRead_length s .msg m) (paddedLen_msgLen_le hmsg)
      fun _ ha => pad_memRead_getElem s .msg m ha

/-- Settles O22: the padding check is `PaddingValid` of the cells of CT, and MSG holds the sequence without its padding. -/
theorem unpadResult : Obligations.UnpadResult := by
  intro s c n
  have hcell (a : Nat) (ha : a < (s.memRead .ct 0 c).length) : (s.memRead .ct 0 c)[a] = s.readByte .ct a :=
    memRead_zero_getElem s .ct c ha
  have hvalid : unpadValid (s.memRead .ct 0 c) = true ↔ PaddingValid (s.readByte .ct) c n := by
    simpa only [State.memRead_length] using unpadValid_iff_paddingValid hcell
  split
  case isTrue hbig =>
    exact failsWith_of_commandResult_error (commandResult_unpad_tooBig ((ctLenTooBig_true s).mpr hbig))
  case isFalse hfit =>
    have hct : s.ctLenTooBig = false := (ctLenTooBig_false s).mpr (not_lt.mp hfit)
    split
    case isTrue hinvalid =>
      exact failsWith_of_commandResult_error
        (commandResult_unpad_invalid hct (Bool.eq_false_iff.mpr (mt hvalid.mp hinvalid)))
    case isFalse hpad =>
      have hval := hvalid.mpr (not_not.mp hpad)
      have hpos := unpadValid_pos _ hval
      have hlen : (unpad (s.memRead .ct 0 c)).length = c - n := by
        rw [unpad_length _ hpos, hcell, State.memRead_length]
      refine putPlaintext_result (commandResult_unpad_valid hct hval) hlen (by omega) fun a ha => ?_
      rw [unpad_getElem _ hpos, hcell]

/-! ## PAD, then UNPAD (R135) -/

/-- What PAD, ENCRYPT and HIDE put in CT is the sequence that CT_LEN and CT give the next command. -/
theorem memRead_ct_putCiphertext {s : State} {y : List Byte} (code : ErrCode) (hfit : y.length ≤ bufCap s.params) :
    ((s.putCiphertext y).completed code).memRead .ct 0 ((s.putCiphertext y).completed code).ctLen.toNat = y := by
  rw [State.completed_ctLen, State.putCiphertext_ctLen, toNat_ofNat_of_le_bufCap hfit]
  exact memRead_eq_of_written fun a ha => read_writeRange_zero s.ct y ha

/-- Putting back the message a buffer of WRITTEN cells held leaves its cells as they were. -/
theorem sameInside_writeRange_memRead {s : State} {b : Buffer} {n : Nat} (m : Memory) (hwritten : Written (s.buf b) 0 n) :
    SameInside (s.buf b) (m.writeRange 0 (s.memRead b 0 n)) 0 n := by
  intro t ht
  rw [Memory.read_writeRange_inside _ _ _ _ (by simpa using ht), State.memRead_getElem s b 0 n t ht]
  obtain ⟨v, hv⟩ := Option.isSome_iff_exists.mp (hwritten t ht)
  rw [State.readByte_written s b _ v hv, hv]

/-- UNPAD in the state PAD leaves completes, and puts the message back. -/
theorem commandResult_unpad_after_pad {s : State} (hmsg : s.msgLenTooBig = false) :
    let q := s.memRead .msg 0 s.msgLen.toNat
    let t := (s.putCiphertext (pad q)).completed .ok
    commandResult .unpad t = .ok (t.putPlaintext q) := by
  intro q t
  have hfit : (pad q).length ≤ bufCap s.params := by
    rw [pad_length, State.memRead_length]
    exact paddedLen_msgLen_le hmsg
  have hread : t.memRead .ct 0 t.ctLen.toNat = pad q := memRead_ct_putCiphertext .ok hfit
  have hct : t.ctLenTooBig = false := by
    rw [ctLenTooBig_false, State.completed_ctLen, State.putCiphertext_ctLen, toNat_ofNat_of_le_bufCap hfit]
    exact hfit
  rw [commandResult_unpad_valid hct (hread ▸ unpadValid_pad q), hread, unpad_pad]

/-- Settles O30: the laws of `pad` and `unpad`, and from them the round trip through CT. -/
theorem unpadRestoresPadded : Obligations.UnpadRestoresPadded := by
  refine ⟨fun q => ⟨?_, ?_, unpadValid_pad q, unpad_pad q⟩, fun s hfit hwritten => ?_⟩
  · rw [pad_length, paddedLen_mod]
  · have := (padLen_pos q.length).1
    rw [pad_length_eq_add]
    omega
  · have hmsg := (msgLenTooBig_false s).mpr hfit
    refine ⟨_, _, exec_of_commandResult_ok (commandResult_pad_fits hmsg), rfl,
      exec_of_commandResult_ok (commandResult_unpad_after_pad hmsg), rfl, ?_, ?_⟩
    · simp
    · exact sameInside_writeRange_memRead s.msg hwritten

end Sys2Proof.Proofs

/-! The message codec (42_codec.md): what ENCRYPT and DECRYPT write, why DECRYPT restores what ENCRYPT enciphered, and that
ENCRYPT depends on its inputs alone. The laws of `ecb` speak of any sequence and any block function, so they serve HIDE and
REVEAL too. -/

namespace Sys2Proof.Proofs

open Sys2Proof Sys2Proof.Machine Sys2Proof.Safety

/-! ## Sequences and their blocks (R18) -/

/-- A block of the first of two sequences joined. -/
theorem blockAt_append_left (p q : List Byte) {k : Nat} (hk : k < p.length / 16) : blockAt (p ++ q) k = blockAt p k := by
  ext i hi : 1
  rw [blockAt_getElem _ _ _ hi, blockAt_getElem _ _ _ hi, List.getD_append _ _ _ _ (by omega)]

/-- A block of the second of two sequences joined, when the first is whole blocks. -/
theorem blockAt_append_right (p q : List Byte) (hp : p.length % 16 = 0) (k : Nat) :
    blockAt (p ++ q) (p.length / 16 + k) = blockAt q k := by
  ext i hi : 1
  rw [blockAt_getElem _ _ _ hi, blockAt_getElem _ _ _ hi, List.getD_append_right _ _ _ _ (by omega)]
  congr 1
  omega

theorem blocks16_append (p q : List Byte) (hp : p.length % 16 = 0) : blocks16 (p ++ q) = blocks16 p ++ blocks16 q := by
  have hlen : (p ++ q).length / 16 = p.length / 16 + q.length / 16 := by
    rw [List.length_append]
    omega
  have hleft : (List.range (p.length / 16)).map (blockAt (p ++ q)) = blocks16 p :=
    List.map_congr_left fun k hk => blockAt_append_left p q (List.mem_range.mp hk)
  have hright : (List.range (q.length / 16)).map (fun k => blockAt (p ++ q) (p.length / 16 + k)) = blocks16 q :=
    List.map_congr_left fun k _ => blockAt_append_right p q hp k
  rw [blocks16, hlen, List.range_add, List.map_append, hleft, List.map_map]
  exact congrArg (blocks16 p ++ ·) hright

theorem blocks16_toList (B : Block) : blocks16 B.toList = [B] := by
  have hblock : blockAt B.toList 0 = B := by
    ext i hi : 1
    rw [blockAt_getElem _ _ _ hi, List.getD_eq_getElem _ _ (by simpa using hi)]
    simp
  simp [blocks16, hblock]

theorem concatBlocks_append (l l' : List Block) : concatBlocks (l ++ l') = concatBlocks l ++ concatBlocks l' :=
  List.flatMap_append

theorem blocks16_concatBlocks (l : List Block) : blocks16 (concatBlocks l) = l := by
  induction l with
  | nil => rfl
  | cons B rest ih =>
    have hcons : concatBlocks (B :: rest) = B.toList ++ concatBlocks rest := rfl
    rw [hcons, blocks16_append _ _ (by simp), blocks16_toList, ih, List.singleton_append]

theorem concatBlocks_blocks16 (p : List Byte) (hp : p.length % 16 = 0) : concatBlocks (blocks16 p) = p := by
  have hlen : (concatBlocks (blocks16 p)).length = p.length := by
    rw [concatBlocks_length, blocks16_length]
    omega
  refine List.ext_getElem hlen fun a _ ha => ?_
  rw [concatBlocks_getElem, blocks16_getElem, blockAt_getElem, Nat.div_add_mod, List.getD_eq_getElem _ _ ha]

/-! ## A block function on each block (R140, R141) -/

/-- A sequence put block by block through `f`: the common form of `ecbEnc` and `ecbDec`. -/
def ecb (f : Block → Block) (p : List Byte) : List Byte := concatBlocks ((blocks16 p).map f)

theorem ecbEnc_eq_ecb (P : Ports) (K : Block) (p : List Byte) : ecbEnc P K p = ecb (P.encipher K) p := rfl

theorem ecbDec_eq_ecb (P : Ports) (K : Block) (x : List Byte) : ecbDec P K x = ecb (P.decipher K) x := rfl

theorem ecb_length_eq_blocks (f : Block → Block) (p : List Byte) : (ecb f p).length = 16 * (p.length / 16) := by
  rw [ecb, concatBlocks_length, List.length_map, blocks16_length]

theorem ecb_length (f : Block → Block) {p : List Byte} (hp : p.length % 16 = 0) : (ecb f p).length = p.length := by
  rw [ecb_length_eq_blocks]
  omega

theorem ecb_toList (f : Block → Block) (B : Block) : ecb f B.toList = (f B).toList := by
  simp [ecb, blocks16_toList, concatBlocks]

theorem ecb_append (f : Block → Block) {p : List Byte} (q : List Byte) (hp : p.length % 16 = 0) :
    ecb f (p ++ q) = ecb f p ++ ecb f q := by
  rw [ecb, blocks16_append p q hp, List.map_append, concatBlocks_append, ecb, ecb]

/-- Block by block, a left inverse of the block function undoes it. -/
theorem ecb_leftInverse {f g : Block → Block} (hinv : Function.LeftInverse g f) {p : List Byte} (hp : p.length % 16 = 0) :
    ecb g (ecb f p) = p := by
  rw [ecb, ecb, blocks16_concatBlocks, List.map_map, hinv.comp_eq_id, List.map_id, concatBlocks_blocks16 p hp]

/-- A whole block of a sequence is `blockOf` any function that gives the sequence's bytes. -/
theorem blockAt_eq_blockOf {p : List Byte} {cell : Nat → Byte} (hcell : ∀ a, (ha : a < p.length) → p[a] = cell a)
    {k : Nat} (hk : k < p.length / 16) : blockAt p k = blockOf cell k := by
  ext i hi : 1
  rw [blockAt_getElem _ _ _ hi, List.getD_eq_getElem _ _ (by omega), hcell]
  simp [blockOf]

/-- The bytes of `ecb f p` are `blockwise f` of any function that gives the bytes of `p`. -/
theorem ecb_getElem (f : Block → Block) {p : List Byte} {cell : Nat → Byte}
    (hcell : ∀ a, (ha : a < p.length) → p[a] = cell a) {a : Nat} (ha : a < (ecb f p).length) :
    (ecb f p)[a] = blockwise f cell a := by
  have hblocks := ecb_length_eq_blocks f p
  simp only [ecb]
  rw [concatBlocks_getElem, List.getElem_map, blocks16_getElem, blockAt_eq_blockOf hcell (by omega), blockwise]

/-- Settles O31: `ecbEnc` and `ecbDec` are both `ecb`, of the cipher's two directions. -/
theorem blocksAreIndependent : Obligations.BlocksAreIndependent :=
  ⟨fun P K B => ⟨ecb_toList (P.encipher K) B, ecb_toList (P.decipher K) B⟩,
    fun P K _ q hp _ => ⟨ecb_append (P.encipher K) q hp, ecb_length (P.encipher K) hp,
      ecb_append (P.decipher K) q hp, ecb_length (P.decipher K) hp⟩⟩

/-! ## The checks of ENCRYPT and DECRYPT, in their order (R142, R143) -/

theorem keyLoaded_false (s : State) : s.keyLoaded = false ↔ s.keyMask ≠ 0xF#4 := by simp [State.keyLoaded]

theorem ctLenNotBlocks_true (s : State) : s.ctLenNotBlocks = true ↔ s.ctLen.toNat = 0 ∨ s.ctLen.toNat % 16 ≠ 0 := by
  simp [State.ctLenNotBlocks]

section Checks

variable (P : Ports) {s : State}

theorem encryptWith_noKey (hkey : s.keyLoaded = false) : encryptWith P s = .error .invalidKeyLength := by
  simp [encryptWith, hkey]

theorem encryptWith_tooBig (hkey : s.keyLoaded = true) (hbig : s.msgLenTooBig = true) :
    encryptWith P s = .error .lengthOutOfRange := by
  simp [encryptWith, hkey, hbig]

theorem encryptWith_fits (hkey : s.keyLoaded = true) (hfit : s.msgLenTooBig = false) :
    encryptWith P s = .ok (s.putCiphertext (ecbEnc P s.keyBytes (pad (s.memRead .msg 0 s.msgLen.toNat)))) := by
  simp [encryptWith, hkey, hfit]

theorem decryptWith_noKey (hkey : s.keyLoaded = false) : decryptWith P s = .error .invalidKeyLength := by
  simp [decryptWith, hkey]

theorem decryptWith_tooBig (hkey : s.keyLoaded = true) (hbig : s.ctLenTooBig = true) :
    decryptWith P s = .error .lengthOutOfRange := by
  simp [decryptWith, hkey, hbig]

theorem decryptWith_notBlocks (hkey : s.keyLoaded = true) (hfit : s.ctLenTooBig = false) (hnot : s.ctLenNotBlocks = true) :
    decryptWith P s = .error .invalidCiphertextLength := by
  simp [decryptWith, hkey, hfit, hnot]

theorem decryptWith_invalid (hkey : s.keyLoaded = true) (hfit : s.ctLenTooBig = false) (hblocks : s.ctLenNotBlocks = false)
    (hval : unpadValid (ecbDec P s.keyBytes (s.memRead .ct 0 s.ctLen.toNat)) = false) :
    decryptWith P s = .error .invalidPadding := by
  simp [decryptWith, hkey, hfit, hblocks, hval]

theorem decryptWith_valid (hkey : s.keyLoaded = true) (hfit : s.ctLenTooBig = false) (hblocks : s.ctLenNotBlocks = false)
    (hval : unpadValid (ecbDec P s.keyBytes (s.memRead .ct 0 s.ctLen.toNat)) = true) :
    decryptWith P s = .ok (s.putPlaintext (unpad (ecbDec P s.keyBytes (s.memRead .ct 0 s.ctLen.toNat)))) := by
  simp [decryptWith, hkey, hfit, hblocks, hval]

end Checks

/-! ## ENCRYPT and DECRYPT -/

theorem pad_length_mod (q : List Byte) : (pad q).length % 16 = 0 := by rw [pad_length, paddedLen_mod]

/-- Enciphering keeps the length of the padded message. -/
theorem ecbEnc_pad_memRead_length (P : Ports) (K : Block) (s : State) (b : Buffer) (m : Nat) :
    (ecbEnc P K (pad (s.memRead b 0 m))).length = paddedLen m := by
  rw [ecbEnc_eq_ecb, ecb_length _ (pad_length_mod _), pad_length, State.memRead_length]

/-- Settles O23: CT holds the enciphered padded message, which fits it, and the completion adds its own fields. -/
theorem encryptResult : Obligations.EncryptResult := by
  intro s m c
  split
  case isTrue hmask =>
    exact failsWith_of_commandResult_error (encryptWith_noKey _ ((keyLoaded_false s).mpr hmask))
  case isFalse hmask =>
    have hkey : s.keyLoaded = true := (keyLoaded_true s).mpr (not_not.mp hmask)
    split
    case isTrue hbig =>
      exact failsWith_of_commandResult_error (encryptWith_tooBig _ hkey ((msgLenTooBig_true s).mpr hbig))
    case isFalse hfit =>
      have hmsg : s.msgLenTooBig = false := (msgLenTooBig_false s).mpr (not_lt.mp hfit)
      exact putCiphertext_result (encryptWith_fits _ hkey hmsg) (ecbEnc_pad_memRead_length ..) (paddedLen_msgLen_le hmsg)
        fun _ ha => ecb_getElem _ (fun _ hb => pad_memRead_getElem s .msg m hb) ha

/-- Settles O24: the padding check is `PaddingValid` of the deciphered cells of CT, and MSG holds them without the padding. -/
theorem decryptResult : Obligations.DecryptResult := by
  intro s c q n
  split
  case isTrue hmask =>
    exact failsWith_of_commandResult_error (decryptWith_noKey _ ((keyLoaded_false s).mpr hmask))
  case isFalse hmask =>
    have hkey : s.keyLoaded = true := (keyLoaded_true s).mpr (not_not.mp hmask)
    split
    case isTrue hbig =>
      exact failsWith_of_commandResult_error (decryptWith_tooBig _ hkey ((ctLenTooBig_true s).mpr hbig))
    case isFalse hfit =>
      have hct : s.ctLenTooBig = false := (ctLenTooBig_false s).mpr (not_lt.mp hfit)
      split
      case isTrue hnot =>
        exact failsWith_of_commandResult_error (decryptWith_notBlocks _ hkey hct ((ctLenNotBlocks_true s).mpr hnot))
      case isFalse hwhole =>
        obtain ⟨hne, hmod⟩ := not_or.mp hwhole
        have hblocks : s.ctLenNotBlocks = false := (ctLenNotBlocks_false s).mpr ⟨hne, not_not.mp hmod⟩
        let x := ecbDec Config.ports s.keyBytes (s.memRead .ct 0 c)
        have hxlen : x.length = c := (ecb_length _ (by simpa using not_not.mp hmod)).trans (State.memRead_length ..)
        have hcell (a : Nat) (ha : a < x.length) : x[a] = q a := ecb_getElem _ (fun _ hb => memRead_zero_getElem s .ct c hb) ha
        have hvalid : unpadValid x = true ↔ PaddingValid q c n := by
          simpa only [hxlen] using unpadValid_iff_paddingValid hcell
        split
        case isTrue hinvalid =>
          exact failsWith_of_commandResult_error
            (decryptWith_invalid _ hkey hct hblocks (Bool.eq_false_iff.mpr (mt hvalid.mp hinvalid)))
        case isFalse hpad =>
          have hval : unpadValid x = true := hvalid.mpr (not_not.mp hpad)
          have hpos : 0 < x.length := unpadValid_pos x hval
          have hlen : (unpad x).length = c - n := by
            simp only [unpad_length x hpos, hcell, hxlen, n]
          refine putPlaintext_result (decryptWith_valid _ hkey hct hblocks hval) hlen (by omega) fun a ha => ?_
          rw [unpad_getElem x hpos, hcell]

/-! ## ENCRYPT, then DECRYPT (R144) -/

/-- DECRYPT of the cells of an enciphered padded sequence completes, and puts the sequence in MSG. -/
theorem decryptWith_of_enciphered {P : Ports} (hinv : CipherInverse P) {u : State} {q : List Byte}
    (hkey : u.keyLoaded = true) (hfit : paddedLen q.length ≤ bufCap u.params) (hlen : u.ctLen.toNat = paddedLen q.length)
    (hread : u.memRead .ct 0 u.ctLen.toNat = ecbEnc P u.keyBytes (pad q)) :
    decryptWith P u = .ok (u.putPlaintext q) := by
  have hct : u.ctLenTooBig = false := (ctLenTooBig_false u).mpr (hlen ▸ hfit)
  have hpos : paddedLen q.length ≠ 0 := by simp [paddedLen]
  have hblocks : u.ctLenNotBlocks = false :=
    (ctLenNotBlocks_false u).mpr ⟨hlen ▸ hpos, hlen ▸ paddedLen_mod q.length⟩
  have hplain : ecbDec P u.keyBytes (u.memRead .ct 0 u.ctLen.toNat) = pad q := by
    rw [hread]
    exact ecb_leftInverse (hinv u.keyBytes) (pad_length_mod q)
  rw [decryptWith_valid P hkey hct hblocks (hplain ▸ unpadValid_pad q), hplain, unpad_pad]

/-- Settles O33: the ciphertext read back deciphers to the padded message, and un-padding gives the message. -/
theorem encryptThenDecryptRestoresMessage : Obligations.EncryptThenDecryptRestoresMessage := by
  refine ⟨fun s => ⟨exec_eq_finish .encrypt s, exec_eq_finish .decrypt s⟩, fun P hinv s hmask hfit hwritten => ?_⟩
  have hkey : s.keyLoaded = true := (keyLoaded_true s).mpr hmask
  have hmsg : s.msgLenTooBig = false := (msgLenTooBig_false s).mpr hfit
  let q := s.memRead .msg 0 s.msgLen.toNat
  let y := ecbEnc P s.keyBytes (pad q)
  have hq : q.length = s.msgLen.toNat := State.memRead_length ..
  have hy : y.length = paddedLen q.length := hq ▸ ecbEnc_pad_memRead_length ..
  have hcap : paddedLen q.length ≤ bufCap s.params := hq ▸ paddedLen_msgLen_le hmsg
  have hctLen : (BitVec.ofNat 32 y.length).toNat = y.length := toNat_ofNat_of_le_bufCap (hy ▸ hcap)
  refine ⟨(s.putCiphertext y).completed .ok, by rw [encryptWith_fits P hkey hmsg, finish_ok], rfl, ?_⟩
  intro u (hukey : u.key = s.key) (humask : u.keyMask = s.keyMask) (huparams : u.params = s.params)
    (huctLen : u.ctLen = BitVec.ofNat 32 y.length)
    (husame : SameInside (s.ct.writeRange 0 y) u.ct 0 (BitVec.ofNat 32 y.length).toNat)
  rw [hctLen] at husame
  have hulen : u.ctLen.toNat = y.length := by rw [huctLen, hctLen]
  have hread : u.memRead .ct 0 u.ctLen.toNat = ecbEnc P u.keyBytes (pad q) := by
    have hukeyBytes : u.keyBytes = s.keyBytes := congrArg Quad.bytes hukey
    rw [hulen, hukeyBytes]
    refine memRead_eq_of_written fun a ha => ?_
    have hcell : u.ct.read a = (s.ct.writeRange 0 y).read a := by simpa only [Nat.zero_add] using husame a ha
    exact hcell.trans (read_writeRange_zero s.ct y ha)
  have hdec : decryptWith P u = .ok (u.putPlaintext q) :=
    decryptWith_of_enciphered hinv ((keyLoaded_true u).mpr (humask.trans hmask)) (huparams ▸ hcap) (hulen.trans hy) hread
  refine ⟨(u.putPlaintext q).completed .ok, by rw [hdec, finish_ok], rfl, ?_, ?_⟩
  · rw [State.completed_msgLen, State.putPlaintext_msgLen, hq, BitVec.ofNat_toNat, BitVec.setWidth_eq]
  · exact sameInside_writeRange_memRead u.msg hwritten

/-! ## ENCRYPT is a function of its inputs (R145) -/

/-- A buffer that agrees with WRITTEN cells is read alike, whatever the draws of the two states are. -/
theorem memRead_eq_of_sameInside {s u : State} {b : Buffer} {n : Nat} (hwritten : Written (s.buf b) 0 n)
    (hsame : SameInside (s.buf b) (u.buf b) 0 n) : u.memRead b 0 n = s.memRead b 0 n := by
  refine State.memRead_congr u s b 0 n fun t ht => ?_
  obtain ⟨v, hv⟩ := Option.isSome_iff_exists.mp (hwritten t ht)
  rw [State.readByte_written s b _ v hv, State.readByte_written u b _ v ((hsame t ht).trans hv)]

/-- Where one sequence is stored in two buffers, they agree. -/
theorem sameInside_writeRange (m m' : Memory) (i : Nat) (vs : List Byte) :
    SameInside (m.writeRange i vs) (m'.writeRange i vs) i vs.length := by
  intro t ht
  rw [Memory.read_writeRange_inside m' i vs t ht, Memory.read_writeRange_inside m i vs t ht]

/-- Settles O39: the checks and the ciphertext read only what the two states agree on. -/
theorem encryptIsDeterministic : Obligations.EncryptIsDeterministic := by
  intro s u t hkey hmask hlen hparams hwritten hsame hs
  have hloaded : u.keyLoaded = s.keyLoaded := by rw [State.keyLoaded, hmask, State.keyLoaded]
  have hbig : u.msgLenTooBig = s.msgLenTooBig := by rw [State.msgLenTooBig, hlen, hparams, State.msgLenTooBig]
  have hmsg : u.memRead .msg 0 s.msgLen.toNat = s.memRead .msg 0 s.msgLen.toNat := memRead_eq_of_sameInside hwritten hsame
  have hkeyBytes : u.keyBytes = s.keyBytes := congrArg Quad.bytes hkey
  have hfails (code : ErrCode) (hne : code ≠ .ok) (hsfail : FailsWith .encrypt s code) (hufail : FailsWith .encrypt u code) :
      ∃ v, exec .encrypt u = .next v ∧ v.errCode = t.errCode
        ∧ (t.errCode = .ok → v.ctLen = t.ctLen ∧ SameInside t.ct v.ct 0 t.ctLen.toNat) := by
    obtain rfl := Host.Outcome.next.inj (hs.symm.trans hsfail)
    exact ⟨_, hufail, rfl, fun hok => absurd hok hne⟩
  cases hk : s.keyLoaded with
  | false =>
    exact hfails .invalidKeyLength nofun (failsWith_of_commandResult_error (encryptWith_noKey _ hk))
      (failsWith_of_commandResult_error (encryptWith_noKey _ (hloaded.trans hk)))
  | true =>
    cases hm : s.msgLenTooBig with
    | true =>
      exact hfails .lengthOutOfRange nofun (failsWith_of_commandResult_error (encryptWith_tooBig _ hk hm))
        (failsWith_of_commandResult_error (encryptWith_tooBig _ (hloaded.trans hk) (hbig.trans hm)))
    | false =>
      obtain rfl := Host.Outcome.next.inj (hs.symm.trans (exec_of_commandResult_ok (encryptWith_fits _ hk hm)))
      have hu := encryptWith_fits Config.ports (hloaded.trans hk) (hbig.trans hm)
      rw [hlen, hmsg, hkeyBytes] at hu
      refine ⟨_, exec_of_commandResult_ok hu, rfl, fun _ => ⟨rfl, fun a ha => sameInside_writeRange s.ct u.ct 0 _ a ?_⟩⟩
      exact ha.trans_le (Nat.mod_le _ _)

end Sys2Proof.Proofs

/-! The bit-insertion pipeline (43_embed.md): what EMBED and HIDE write, that only bit 0 of the used carrier bytes changes,
that a second EMBED changes nothing more, and that HIDE is ENCRYPT, a write of OFFSET and EMBED. The laws of the checks and
of a command that completes with code 0 serve EXTRACT and REVEAL too. -/

namespace Sys2Proof.Proofs

open Sys2Proof Sys2Proof.Machine Sys2Proof.Safety

/-! ## A command that completes with code 0 (R111, R200) -/

theorem ok_ne_error {u : State} {code : ErrCode} : Except.ok u ≠ .error code := nofun

/-- A check raises a code of its own: code 0 could come only from what follows it. -/
theorem check_ne_error_ok {p : Prop} [Decidable p] {code : ErrCode} {r : Except ErrCode State} (hrest : r ≠ .error .ok)
    (hcode : code ≠ .ok := by decide) : (if p then .error code else r) ≠ .error .ok := by
  split
  · exact fun h => hcode (Except.error.inj h)
  · exact hrest

/-- The placement check raises codes of its own (R151). -/
theorem placeCheck_ne_error_ok {c S o : Nat} {r : Except ErrCode State} (hrest : r ≠ .error .ok) :
    (match placeCheck c S o with | some code => Except.error code | none => r) ≠ .error .ok := by
  split
  case h_1 code hplace =>
    obtain ⟨rfl, -⟩ | ⟨rfl, -⟩ := placeCheck_some c S o code hplace <;> simp
  case h_2 => exact hrest

/-- No command raises code 0: each is a chain of checks and then its result. -/
theorem commandResult_ne_error_ok (i : Instr) (s : State) : commandResult i s ≠ .error .ok := by
  cases i with
  | nop => exact ok_ne_error
  | encBlock => exact check_ne_error_ok ok_ne_error
  | decBlock => exact check_ne_error_ok ok_ne_error
  | pad => exact check_ne_error_ok ok_ne_error
  | unpad => exact check_ne_error_ok (check_ne_error_ok ok_ne_error)
  | encrypt => exact check_ne_error_ok (check_ne_error_ok ok_ne_error)
  | decrypt => exact check_ne_error_ok (check_ne_error_ok (check_ne_error_ok (check_ne_error_ok ok_ne_error)))
  | embed => exact check_ne_error_ok (check_ne_error_ok (placeCheck_ne_error_ok ok_ne_error))
  | extract => exact check_ne_error_ok (check_ne_error_ok (placeCheck_ne_error_ok ok_ne_error))
  | hide => exact check_ne_error_ok (check_ne_error_ok (check_ne_error_ok ok_ne_error))
  | reveal =>
    exact check_ne_error_ok (check_ne_error_ok (check_ne_error_ok (check_ne_error_ok
      (placeCheck_ne_error_ok (check_ne_error_ok ok_ne_error)))))

/-- A command that completes with code 0 has computed a result. -/
theorem exec_next_ok {i : Instr} {s t : State} (h : exec i s = .next t) (hok : t.errCode = .ok) :
    ∃ u, commandResult i s = .ok u ∧ t = u.completed .ok := by
  obtain hres | ⟨code, herr, rfl⟩ := exec_next h
  · exact hres
  · obtain rfl : code = .ok := hok
    exact absurd herr (commandResult_ne_error_ok i s)

/-- A command's first check completes with its own code and nothing else, or the command goes on behind it (R111). -/
theorem check_fails_or {i : Instr} {s : State} {p Q : Prop} [Decidable p] {code : ErrCode} {r : Except ErrCode State}
    (hrun : commandResult i s = if p then .error code else r) (hrest : ¬ p → commandResult i s = r → Q) :
    if p then FailsWith i s code else Q := by
  split
  case isTrue hp => exact failsWith_of_commandResult_error (hrun.trans (if_pos hp))
  case isFalse hp => exact hrest hp (hrun.trans (if_neg hp))

/-! ## WRITTEN cells read alike, whatever the draws are (R89) -/

theorem readByte_eq_of_written {s u : State} {b : Buffer} {i : Nat} (hwritten : ((s.buf b).read i).isSome = true)
    (hsame : (u.buf b).read i = (s.buf b).read i) : u.readByte b i = s.readByte b i := by
  obtain ⟨v, hv⟩ := Option.isSome_iff_exists.mp hwritten
  rw [State.readByte_written s b i v hv, State.readByte_written u b i v (hsame.trans hv)]

/-- `memRead_eq_of_sameInside` for a range that starts at any cell. -/
theorem memRead_eq_of_sameInside_from {s u : State} {b : Buffer} {i n : Nat} (hwritten : Written (s.buf b) i n)
    (hsame : SameInside (s.buf b) (u.buf b) i n) : u.memRead b i n = s.memRead b i n :=
  State.memRead_congr u s b i n fun t ht => readByte_eq_of_written (hwritten t ht) (hsame t ht)

/-! ## Inserting a payload into the carrier (R150) -/

/-- Inserting a bit twice is inserting it once. -/
theorem insertBit_insertBit (v p : Byte) (j : Nat) : insertBit (insertBit v p j) p j = insertBit v p j := by
  refine BitVec.eq_of_getLsbD_eq fun b hb => ?_
  obtain rfl | hpos := Nat.eq_zero_or_pos b
  · exact (embedBit_low _ p j).trans (embedBit_low v p j).symm
  · exact embedBit_high _ p j b hpos hb

/-- The carrier `m` is that of `s` with the `c` payload bytes `y` inserted from `o` on (R150). -/
structure Inserted (s : State) (m : Memory) (o c : Nat) (y : Nat → Byte) : Prop where
  /-- bit `j` of payload byte `i` is in bit 0 of its carrier byte, whose other bits are those `s` reads there -/
  inside : ∀ i j, i < c → j < 8 → m.read (o + 8 * i + j) = some (insertBit (s.readByte .car (o + 8 * i + j)) (y i) j)
  /-- every other carrier cell is as in `s` -/
  outside : SameOutside s.car m o (8 * c)

/-- `embedBits` inserts its sequence, for every function that gives the sequence's bytes. -/
theorem embedBits_inserted (s : State) (o : Nat) {y : List Byte} {c : Nat} {cell : Nat → Byte} (hlen : y.length = c)
    (hcell : ∀ a, (ha : a < y.length) → y[a] = cell a) : Inserted s (s.embedBits o y).car o c cell := by
  subst hlen
  refine ⟨fun i j hi hj => ?_, embedBits_outside s o y⟩
  rw [← hcell i hi]
  exact embedBits_inside s o y i j hi hj

section Inserted

variable {s t : State} {m : Memory} {o c : Nat} {y y' : Nat → Byte}

/-- Only the `c` payload bytes matter. -/
theorem Inserted.congr (h : Inserted s m o c y) (hy : ∀ i, i < c → y' i = y i) : Inserted s m o c y' :=
  ⟨fun i j hi hj => hy i hi ▸ h.inside i j hi hj, h.outside⟩

/-- A used carrier byte, by its own index. -/
theorem Inserted.read (h : Inserted s m o c y) {a : Nat} (hlow : o ≤ a) (hhigh : a < o + 8 * c) :
    m.read a = some (insertBit (s.readByte .car a) (y ((a - o) / 8)) ((a - o) % 8)) := by
  have hcell := h.inside ((a - o) / 8) ((a - o) % 8) (by omega) (Nat.mod_lt _ (by decide))
  have hindex : o + 8 * ((a - o) / 8) + (a - o) % 8 = a := by omega
  rwa [hindex] at hcell

/-- Inserting the same payload at the same place once more changes nothing (R152, corner cases). -/
theorem Inserted.read_again (h : Inserted s t.car o c y) (hagain : Inserted t m o c y) (a : Nat) :
    m.read a = t.car.read a := by
  by_cases hused : o ≤ a ∧ a < o + 8 * c
  · have hread := h.read hused.1 hused.2
    rw [hagain.read hused.1 hused.2, State.readByte_written t .car a _ hread, insertBit_insertBit, hread]
  · exact hagain.outside a (by omega)

end Inserted

/-! ## The checks of EMBED and HIDE, in their order (R151, R152, R154) -/

theorem placed_false (s : State) : s.placed = false ↔ s.offValid = false ∨ s.lenValid = false := by
  rw [State.placed, Bool.and_eq_false_iff]

theorem carLenTooBig_true (s : State) : s.carLenTooBig = true ↔ s.carLen.toNat > carCap s.params := by
  simp [State.carLenTooBig]

/-- A payload that lies in the carrier passes the placement check. -/
theorem placeCheck_of_fits {c S o : Nat} (hfits : o + 8 * c ≤ S) : placeCheck c S o = none := by
  rw [placeCheck, if_neg (by omega), if_neg (by omega)]

/-- EMBED as its checks and its result. -/
theorem embedResult_eq (s : State) : Machine.embedResult s =
    if s.offValid = false ∨ s.lenValid = false then .error .missingOffsetOrLength
    else if s.ctLen.toNat > bufCap s.params ∨ s.carLen.toNat > carCap s.params then .error .lengthOutOfRange
    else if 8 * s.ctLen.toNat > s.carLen.toNat then .error .carrierTooSmall
    else if s.offset.toNat > s.carLen.toNat - 8 * s.ctLen.toNat then .error .offsetOutOfRange
    else .ok (s.embedBits s.offset.toNat (s.memRead .ct 0 s.ctLen.toNat)) := by
  simp only [Machine.embedResult, placeCheck, Bool.not_eq_true', placed_false, Bool.or_eq_true, ctLenTooBig_true,
    carLenTooBig_true]
  split_ifs <;> rfl

/-- EMBED where its checks pass. -/
theorem embedResult_of_checks {s : State} (hplaced : s.placed = true) (hct : s.ctLenTooBig = false)
    (hcar : s.carLenTooBig = false) (hplace : placeCheck s.ctLen.toNat s.carLen.toNat s.offset.toNat = none) :
    Machine.embedResult s = .ok (s.embedBits s.offset.toNat (s.memRead .ct 0 s.ctLen.toNat)) := by
  simp [Machine.embedResult, hplaced, hct, hcar, hplace]

/-- What HIDE computes where its checks pass: the ciphertext in CT, the drawn offset in OFFSET, the ciphertext's bits in
CAR (R154). -/
def hidden (P : Ports) (s : State) : State :=
  ((s.putCiphertext (hideCiphertext P s)).writeOffset (BitVec.ofNat 32 (hideOffset P s))).embedBits
    (hideOffset P s) (hideCiphertext P s)

/-- HIDE as its checks and its result. -/
theorem hideWith_eq (P : Ports) (s : State) : hideWith P s =
    if s.keyMask ≠ 0xF#4 then .error .invalidKeyLength
    else if s.msgLen.toNat > bufCap s.params - 1 ∨ s.carLen.toNat > carCap s.params then .error .lengthOutOfRange
    else if 8 * paddedLen s.msgLen.toNat > s.carLen.toNat then .error .carrierTooSmall
    else .ok (hidden P s) := by
  simp only [hideWith, Bool.not_eq_true', keyLoaded_false, Bool.or_eq_true, msgLenTooBig_true, carLenTooBig_true]
  rfl

/-! ## EMBED -/

/-- EMBED's result inserts what CT holds. -/
theorem embedBits_ct_inserted (s : State) :
    Inserted s (s.embedBits s.offset.toNat (s.memRead .ct 0 s.ctLen.toNat)).car s.offset.toNat s.ctLen.toNat
      (s.readByte .ct) :=
  embedBits_inserted s s.offset.toNat (State.memRead_length ..) fun _ ha => memRead_zero_getElem s .ct _ ha

/-- Settles O25: behind its checks EMBED inserts what CT holds. -/
theorem embedResult : Obligations.EmbedResult := by
  intro s c S o
  refine check_fails_or (embedResult_eq s) fun _ hrun => check_fails_or hrun fun _ hrun => check_fails_or hrun fun _ hrun =>
    check_fails_or hrun fun _ hrun => ?_
  obtain ⟨hinside, houtside⟩ := embedBits_ct_inserted s
  exact ⟨_, exec_of_commandResult_ok hrun, rfl, hinside, houtside⟩

/-- EMBED that completes with code 0 has inserted what it read from CT. -/
theorem embed_inserted {s t : State} (h : exec .embed s = .next t) (hok : t.errCode = .ok) :
    Inserted s t.car t.offset.toNat t.ctLen.toNat (s.readByte .ct) := by
  obtain ⟨u, hu, rfl⟩ := exec_next_ok h hok
  obtain ⟨-, -, -, -, rfl⟩ := embedResult_ok s u hu
  exact embedBits_ct_inserted s

/-- Settles O37: the second EMBED passes the same checks and inserts the same WRITTEN payload at the same place. -/
theorem embedIsIdempotent : Obligations.EmbedIsIdempotent := by
  intro s t h hok hwritten
  have hfirst := embed_inserted h hok
  obtain ⟨u, hu, rfl⟩ := exec_next_ok h hok
  obtain ⟨hplaced, hct, hcar, hplace, rfl⟩ := embedResult_ok s u hu
  let t := (s.embedBits s.offset.toNat (s.memRead .ct 0 s.ctLen.toNat)).completed .ok
  have hagain : commandResult .embed t = .ok (t.embedBits t.offset.toNat (t.memRead .ct 0 t.ctLen.toNat)) :=
    embedResult_of_checks hplaced hct hcar hplace
  have hpayload (a : Nat) (ha : a < s.ctLen.toNat) : s.readByte .ct a = t.readByte .ct a := by
    have hcell : (s.ct.read a).isSome = true := by simpa using hwritten a ha
    exact (readByte_eq_of_written (s := s) (u := t) (b := .ct) hcell rfl).symm
  have hsecond := (embedBits_ct_inserted t).congr hpayload
  exact ⟨_, exec_of_commandResult_ok hagain, rfl, hfirst.read_again hsecond⟩

/-! ## HIDE -/

section Hidden

variable (P : Ports) (s : State)

variable {s} in
/-- The drawn offset leaves room for the ciphertext (R153). -/
theorem hideOffset_room (hroom : 8 * paddedLen s.msgLen.toNat ≤ s.carLen.toNat) :
    hideOffset P s + 8 * paddedLen s.msgLen.toNat ≤ s.carLen.toNat := by
  have hdraw : hideOffset P s ≤ s.carLen.toNat - 8 * paddedLen s.msgLen.toNat := drawOffset_le ..
  omega

/-- The drawn offset fits OFFSET: it is at most CAR_LEN. -/
theorem toNat_hideOffset : (BitVec.ofNat 32 (hideOffset P s)).toNat = hideOffset P s := by
  have hdraw : hideOffset P s ≤ s.carLen.toNat - 8 * paddedLen s.msgLen.toNat := drawOffset_le ..
  rw [BitVec.toNat_ofNat, Nat.mod_eq_of_lt (by omega)]

variable {s} in
/-- The ciphertext's length fits CT_LEN: it is at most BUF_CAP. -/
theorem toNat_hideCiphertext_length (hmsg : s.msgLenTooBig = false) :
    (BitVec.ofNat 32 (hideCiphertext P s).length).toNat = paddedLen s.msgLen.toNat := by
  rw [hideCiphertext_length, toNat_ofNat_of_le_bufCap (paddedLen_msgLen_le hmsg)]

/-- The bytes of HIDE's ciphertext: the padded message put block by block through the cipher (R142). -/
def hideCell : Nat → Byte := blockwise (P.encipher s.key.bytes) (paddedCell (s.readByte .msg) s.msgLen.toNat)

theorem hideCiphertext_getElem {a : Nat} (ha : a < (hideCiphertext P s).length) :
    (hideCiphertext P s)[a] = hideCell P s a :=
  ecb_getElem _ (fun _ hb => pad_memRead_getElem s .msg _ hb) ha

/-- HIDE's result holds the ciphertext in CT. -/
theorem hidden_ct_read {a : Nat} (ha : a < paddedLen s.msgLen.toNat) : (hidden P s).ct.read a = some (hideCell P s a) := by
  rw [← hideCiphertext_length P s] at ha
  rw [← hideCiphertext_getElem P s ha]
  exact read_writeRange_zero s.ct _ ha

theorem hidden_ct_outside : SameOutside s.ct (hidden P s).ct 0 (paddedLen s.msgLen.toNat) := by
  rw [← hideCiphertext_length P s]
  exact sameOutside_writeRange s.ct 0 (hideCiphertext P s)

/-- HIDE's result inserts the ciphertext. -/
theorem hidden_inserted :
    Inserted s (hidden P s).car (hideOffset P s) (paddedLen s.msgLen.toNat) (hideCell P s) := by
  let u := (s.putCiphertext (hideCiphertext P s)).writeOffset (BitVec.ofNat 32 (hideOffset P s))
  obtain ⟨hinside, houtside⟩ := embedBits_inserted u (hideOffset P s) (hideCiphertext_length P s)
    fun _ ha => hideCiphertext_getElem P s ha
  exact ⟨hinside, houtside⟩

end Hidden

/-- Settles O27: behind its checks HIDE enciphers the message, draws an offset with room for it and inserts it there. -/
theorem hideResult : Obligations.HideResult := by
  intro s m S c y
  refine check_fails_or (hideWith_eq Config.ports s) fun _ hrun => check_fails_or hrun fun hlength hrun =>
    check_fails_or hrun fun hsmall hrun => ?_
  have hmsg : s.msgLenTooBig = false := (msgLenTooBig_false s).mpr (not_lt.mp (not_or.mp hlength).1)
  have hoffset := toNat_hideOffset Config.ports s
  obtain ⟨hinside, houtside⟩ := hidden_inserted Config.ports s
  rw [← hoffset] at hinside houtside
  exact ⟨(hidden Config.ports s).completed .ok, exec_of_commandResult_ok hrun, rfl,
    toNat_hideCiphertext_length Config.ports hmsg, fun _ ha => hidden_ct_read Config.ports s ha,
    hidden_ct_outside Config.ports s, hoffset, hoffset ▸ hideOffset_room Config.ports (not_lt.mp hsmall), hinside,
    houtside⟩

/-! ## Only bit 0 of the used carrier bytes changes (R155) -/

/-- HIDE that completes with code 0 has inserted what it left in CT. -/
theorem hide_inserted {s t : State} {y : Nat → Byte} (h : exec .hide s = .next t) (hok : t.errCode = .ok)
    (hct : ∀ a, a < t.ctLen.toNat → t.ct.read a = some (y a)) :
    Inserted s t.car t.offset.toNat t.ctLen.toNat y := by
  obtain ⟨u, hu, rfl⟩ := exec_next_ok h hok
  obtain ⟨-, hmsg, -, -, rfl⟩ := hideWith_ok Config.ports s u hu
  have hins := hidden_inserted Config.ports s
  rw [← toNat_hideOffset Config.ports s, ← toNat_hideCiphertext_length Config.ports hmsg] at hins
  refine hins.congr fun a ha => Option.some.inj ((hct a ha).symm.trans (hidden_ct_read Config.ports s ?_))
  rwa [toNat_hideCiphertext_length Config.ports hmsg] at ha

/-- Settles O38: both commands insert the payload `y`, and insertion touches bit 0 of the used bytes alone. -/
theorem onlyBitZeroOfTheCarrierChanges : Obligations.OnlyBitZeroOfTheCarrierChanges := by
  intro i s t y hi h hok hembed hhide o c
  have hins : Inserted s t.car o c y := by
    obtain rfl | rfl := hi
    · exact (embed_inserted h hok).congr (hembed rfl)
    · exact hide_inserted h hok (hhide rfl)
  exact ⟨fun a hlow hhigh => ⟨_, hins.read hlow hhigh, embedBit_high _ _ _, embedBit_low _ _ _⟩, hins.outside⟩

/-! ## HIDE is ENCRYPT, a write of OFFSET and EMBED (R154, corner cases) -/

/-- A write of OFFSET leaves every buffer as it is. -/
theorem memRead_writeOffset (s : State) (v : Word) (b : Buffer) (i n : Nat) :
    (s.writeOffset v).memRead b i n = s.memRead b i n := by
  cases b <;> rfl

section EncryptThenEmbed

variable (P : Ports) {s : State}

/-- The state ENCRYPT leaves, with HIDE's offset written to OFFSET. -/
def readyToEmbed (P : Ports) (s : State) : State :=
  ((s.putCiphertext (hideCiphertext P s)).completed .ok).writeOffset (BitVec.ofNat 32 (hideOffset P s))

/-- There EMBED finds HIDE's ciphertext in CT and HIDE's offset in OFFSET, and the offset leaves room. -/
theorem embedResult_readyToEmbed (hmsg : s.msgLenTooBig = false) (hcar : s.carLenTooBig = false)
    (hroom : 8 * paddedLen s.msgLen.toNat ≤ s.carLen.toNat) :
    Machine.embedResult (readyToEmbed P s) = .ok ((readyToEmbed P s).embedBits (hideOffset P s) (hideCiphertext P s)) := by
  have hlen : (readyToEmbed P s).ctLen.toNat = paddedLen s.msgLen.toNat := toNat_hideCiphertext_length P hmsg
  have hoffset : (readyToEmbed P s).offset.toNat = hideOffset P s := toNat_hideOffset P s
  have hfit : (hideCiphertext P s).length ≤ bufCap s.params :=
    (hideCiphertext_length P s).trans_le (paddedLen_msgLen_le hmsg)
  have hpayload : (readyToEmbed P s).memRead .ct 0 (readyToEmbed P s).ctLen.toNat = hideCiphertext P s := by
    rw [readyToEmbed, memRead_writeOffset, State.writeOffset_ctLen]
    exact memRead_ct_putCiphertext .ok hfit
  have hct : (readyToEmbed P s).ctLenTooBig = false := by
    rw [ctLenTooBig_false, hlen]
    exact paddedLen_msgLen_le hmsg
  have hplace : placeCheck (readyToEmbed P s).ctLen.toNat s.carLen.toNat (readyToEmbed P s).offset.toNat = none := by
    rw [hlen, hoffset]
    exact placeCheck_of_fits (hideOffset_room P hroom)
  rw [embedResult_of_checks rfl hct hcar hplace, hpayload, hoffset]

/-- There EMBED writes the carrier HIDE writes: both read the same WRITTEN carrier bytes. -/
theorem embedBits_readyToEmbed_car (hwritten : Written s.car (hideOffset P s) (8 * (hideCiphertext P s).length)) :
    ((readyToEmbed P s).embedBits (hideOffset P s) (hideCiphertext P s)).car = (hidden P s).car := by
  have hread : (readyToEmbed P s).memRead .car (hideOffset P s) (8 * (hideCiphertext P s).length)
      = s.memRead .car (hideOffset P s) (8 * (hideCiphertext P s).length) :=
    memRead_eq_of_sameInside_from hwritten fun _ _ => rfl
  exact congrArg (fun vs => s.car.writeRange (hideOffset P s) (embedBytes vs (hideCiphertext P s))) hread

end EncryptThenEmbed

/-- Settles O36: after ENCRYPT and the write of OFFSET, EMBED passes its checks and inserts what HIDE inserts. -/
theorem hideIsEncryptThenEmbed : Obligations.HideIsEncryptThenEmbed := by
  intro s t h hok hwritten
  obtain ⟨u, hu, rfl⟩ := exec_next_ok h hok
  obtain ⟨hkey, hmsg, hcar, hroom, rfl⟩ := hideWith_ok Config.ports s u hu
  have hencrypt : exec .encrypt s = .next ((s.putCiphertext (hideCiphertext Config.ports s)).completed .ok) :=
    exec_of_commandResult_ok (encryptWith_fits Config.ports hkey hmsg)
  have hembed : exec .embed (readyToEmbed Config.ports s) = .next _ :=
    exec_of_commandResult_ok (embedResult_readyToEmbed Config.ports hmsg hcar hroom)
  have hused : Written s.car (hideOffset Config.ports s) (8 * (hideCiphertext Config.ports s).length) := by
    rw [← toNat_hideOffset Config.ports s, hideCiphertext_length, ← toNat_hideCiphertext_length Config.ports hmsg]
    exact hwritten
  refine ⟨_, _, hencrypt, rfl, hembed, rfl, rfl, rfl, rfl, rfl, rfl, ?_⟩
  rw [State.completed_car, State.completed_car]
  exact embedBits_readyToEmbed_car Config.ports hused

end Sys2Proof.Proofs

/-! The bit-extraction pipeline (44_extract.md): what EXTRACT and REVEAL write, that extraction reads back what EMBED or HIDE
inserted, and that REVEAL restores the message HIDE hid. -/

namespace Sys2Proof.Proofs

open Sys2Proof Sys2Proof.Machine Sys2Proof.Safety

/-! ## The payload the carrier holds (R165) -/

section Carried

variable {s : State} {o c : Nat} {y : Nat → Byte}

/-- The carrier holds the payload whose bytes extraction computes. -/
theorem carries_extractByte (s : State) (o c : Nat) :
    Carries (s.readByte .car) o c (extractByte (s.memRead .car o (8 * c))) := by
  intro i hi j hj
  rw [extractByte_getLsbD _ _ _ hj, State.memRead_getD _ _ _ _ _ (by omega), Nat.add_assoc]

/-- The carrier holds one payload only, so extraction gives every payload it holds. -/
theorem extractBits_getElem (hy : Carries (s.readByte .car) o c y) {a : Nat} (ha : a < (s.extractBits o c).length) :
    (s.extractBits o c)[a] = y a :=
  BitVec.eq_of_getLsbD_eq fun j hj => (extractBits_bit s o c a j ha hj).trans (hy a (by simpa using ha) j hj).symm

theorem extractBits_getElem? (hy : Carries (s.readByte .car) o c y) {a : Nat} (ha : a < c) :
    (s.extractBits o c)[a]? = some (y a) := by
  rw [List.getElem?_eq_getElem (by simpa using ha), extractBits_getElem hy]

/-- A carrier with a payload inserted holds that payload, as long as its used cells stay as they are (R168). -/
theorem Inserted.carries {m : Memory} {u : State} (h : Inserted s m o c y) (hsame : SameInside m u.car o (8 * c)) :
    Carries (u.readByte .car) o c y := by
  intro i hi j hj
  have hread : u.car.read (o + 8 * i + j) = some (insertBit (s.readByte .car (o + 8 * i + j)) (y i) j) := by
    rw [← h.inside i j hi hj, Nat.add_assoc]
    exact hsame (8 * i + j) (by omega)
  rw [State.readByte_written u .car _ _ hread]
  exact (embedBit_low _ _ j).symm

end Carried

/-- A buffer written from cell 0 holds the sequence, by a function that gives its bytes, and is otherwise as before. -/
theorem writeRange_zero_cells (m : Memory) {vs : List Byte} {c : Nat} {cell : Nat → Byte} (hlen : vs.length = c)
    (hcell : ∀ a, (ha : a < vs.length) → vs[a] = cell a) :
    (∀ a, a < c → (m.writeRange 0 vs).read a = some (cell a)) ∧ SameOutside m (m.writeRange 0 vs) 0 c := by
  subst hlen
  exact ⟨fun a ha => hcell a ha ▸ read_writeRange_zero m vs ha, sameOutside_writeRange m 0 vs⟩

/-! ## The checks of EXTRACT and REVEAL, in their order (R166, R167) -/

/-- EXTRACT as its checks and its result. -/
theorem extractResult_eq (s : State) : Machine.extractResult s =
    if s.offValid = false ∨ s.lenValid = false then .error .missingOffsetOrLength
    else if s.ctLen.toNat > bufCap s.params ∨ s.carLen.toNat > carCap s.params then .error .lengthOutOfRange
    else if 8 * s.ctLen.toNat > s.carLen.toNat then .error .carrierTooSmall
    else if s.offset.toNat > s.carLen.toNat - 8 * s.ctLen.toNat then .error .offsetOutOfRange
    else .ok (s.memWrite .ct 0 (s.extractBits s.offset.toNat s.ctLen.toNat)) := by
  simp only [Machine.extractResult, placeCheck, Bool.not_eq_true', placed_false, Bool.or_eq_true, ctLenTooBig_true,
    carLenTooBig_true]
  split_ifs <;> rfl

/-- The padded message REVEAL deciphers from the carrier (R167). -/
def revealPadded (P : Ports) (s : State) : List Byte :=
  ecbDec P s.keyBytes (s.extractBits s.offset.toNat s.ctLen.toNat)

/-- What REVEAL computes where its checks pass: the extracted ciphertext in CT, its plaintext in MSG and MSG_LEN (R167). -/
def revealed (P : Ports) (s : State) : State :=
  (s.memWrite .ct 0 (s.extractBits s.offset.toNat s.ctLen.toNat)).putPlaintext (unpad (revealPadded P s))

/-- REVEAL as its checks and its result. -/
theorem revealWith_eq (P : Ports) (s : State) : revealWith P s =
    if s.keyMask ≠ 0xF#4 then .error .invalidKeyLength
    else if s.offValid = false ∨ s.lenValid = false then .error .missingOffsetOrLength
    else if s.ctLen.toNat > bufCap s.params ∨ s.carLen.toNat > carCap s.params then .error .lengthOutOfRange
    else if s.ctLen.toNat = 0 ∨ s.ctLen.toNat % 16 ≠ 0 then .error .invalidCiphertextLength
    else if 8 * s.ctLen.toNat > s.carLen.toNat then .error .carrierTooSmall
    else if s.offset.toNat > s.carLen.toNat - 8 * s.ctLen.toNat then .error .offsetOutOfRange
    else if ¬ unpadValid (revealPadded P s) = true then .error .invalidPadding
    else .ok (revealed P s) := by
  simp only [revealWith, placeCheck, Bool.not_eq_true', keyLoaded_false, placed_false, Bool.or_eq_true,
    ctLenTooBig_true, carLenTooBig_true, ctLenNotBlocks_true, Bool.not_eq_true, revealPadded]
  split_ifs <;> rfl

/-- REVEAL where its checks pass. -/
theorem revealWith_of_checks {P : Ports} {s : State} (hkey : s.keyLoaded = true) (hplaced : s.placed = true)
    (hct : s.ctLenTooBig = false) (hcar : s.carLenTooBig = false) (hblocks : s.ctLenNotBlocks = false)
    (hplace : placeCheck s.ctLen.toNat s.carLen.toNat s.offset.toNat = none)
    (hval : unpadValid (revealPadded P s) = true) : revealWith P s = .ok (revealed P s) := by
  rw [revealPadded] at hval
  simp [revealWith, hkey, hplaced, hct, hcar, hblocks, hplace, hval, revealed, revealPadded]

/-! ## EXTRACT and REVEAL -/

/-- Settles O26: behind its checks EXTRACT puts in CT the payload the carrier holds. -/
theorem extractResult : Obligations.ExtractResult := by
  intro s c S o
  refine check_fails_or (extractResult_eq s) fun _ hrun => check_fails_or hrun fun _ hrun => check_fails_or hrun fun _ hrun =>
    check_fails_or hrun fun _ hrun => ?_
  have hy := carries_extractByte s o c
  obtain ⟨hinside, houtside⟩ := writeRange_zero_cells s.ct (extractBits_length s o c) fun _ ha => extractBits_getElem hy ha
  exact ⟨_, _, exec_of_commandResult_ok hrun, rfl, hy, hinside, houtside⟩

/-- Settles O28: behind its checks REVEAL puts in CT the payload `y` the carrier holds, and in MSG the deciphered blocks of `y`
without their padding, whose validity is `PaddingValid`. -/
theorem revealResult : Obligations.RevealResult := by
  intro s y hy c S o q n
  refine check_fails_or (revealWith_eq Config.ports s) fun _ hrun => check_fails_or hrun fun _ hrun =>
    check_fails_or hrun fun hlengths hrun => check_fails_or hrun fun hwhole hrun => check_fails_or hrun fun _ hrun =>
    check_fails_or hrun fun _ hrun => ?_
  have hfit : c ≤ bufCap s.params := not_lt.mp (not_or.mp hlengths).1
  have hmod : c % 16 = 0 := not_not.mp (not_or.mp hwhole).2
  let x := revealPadded Config.ports s
  have hxlen : x.length = c := (ecb_length _ (by rwa [extractBits_length])).trans (extractBits_length s o c)
  have hcell (a : Nat) (ha : a < x.length) : x[a] = q a := ecb_getElem _ (fun _ hb => extractBits_getElem hy hb) ha
  have hvalid : unpadValid x = true ↔ PaddingValid q c n := by
    simpa only [hxlen] using unpadValid_iff_paddingValid hcell
  refine check_fails_or (hrun.trans (if_congr (not_congr hvalid) rfl rfl)) fun hpad hrun => ?_
  have hpos : 0 < x.length := unpadValid_pos x (hvalid.mpr (not_not.mp hpad))
  have hlen : (unpad x).length = c - n := by
    simp only [unpad_length x hpos, hcell, hxlen, n]
  obtain ⟨hct, hctOutside⟩ := writeRange_zero_cells s.ct (extractBits_length s o c) fun _ ha => extractBits_getElem hy ha
  obtain ⟨hmsg, hmsgOutside⟩ := writeRange_zero_cells s.msg hlen fun a ha => (unpad_getElem x hpos a ha).trans (hcell a _)
  have hmsgLen : (BitVec.ofNat 32 (unpad x).length).toNat = c - n := by
    rw [hlen, toNat_ofNat_of_le_bufCap (by omega : c - n ≤ bufCap s.params)]
  exact ⟨_, exec_of_commandResult_ok hrun, rfl, hct, hctOutside, hmsgLen, hmsg, hmsgOutside⟩

/-! ## Extraction reads back what EMBED or HIDE wrote (R168) -/

/-- HIDE that completes with code 0 leaves its ciphertext in CT. -/
theorem hide_ct_read {s t : State} (h : exec .hide s = .next t) (hok : t.errCode = .ok) {a : Nat} (ha : a < t.ctLen.toNat) :
    t.ct.read a = some (hideCell Config.ports s a) := by
  obtain ⟨u, hu, rfl⟩ := exec_next_ok h hok
  obtain ⟨-, hmsg, -, -, rfl⟩ := hideWith_ok Config.ports s u hu
  exact hidden_ct_read Config.ports s (ha.trans_eq (toNat_hideCiphertext_length Config.ports hmsg))

/-- Settles O34: both commands insert their payload, and extraction gives the payload the carrier holds. -/
theorem extractionInvertsInsertion : Obligations.ExtractionInvertsInsertion := by
  intro i s t u _ h hok hsame y
  refine ⟨extractBits_length .., ?_, ?_⟩
  · rintro rfl a ha
    exact extractBits_getElem? ((embed_inserted h hok).carries hsame) ha
  · rintro rfl a ha
    have hins := hide_inserted h hok fun _ hb => hide_ct_read h hok hb
    rw [hide_ct_read h hok ha]
    exact extractBits_getElem? (hins.carries hsame) ha

/-! ## HIDE, then REVEAL (R169) -/

/-- A completion with code 0 has a result, where the command raises no code 0 itself. -/
theorem finish_next_ok {s t : State} {r : Except ErrCode State} (hr : r ≠ .error .ok) (h : finish s r = .next t)
    (hok : t.errCode = .ok) : ∃ u, r = .ok u ∧ t = u.completed .ok := by
  obtain hres | ⟨code, herr, -, rfl⟩ := finish_next s t r h
  · exact hres
  · obtain rfl : code = .ok := hok
    exact absurd herr hr

theorem hideWith_ne_error_ok (P : Ports) (s : State) : hideWith P s ≠ .error .ok :=
  check_ne_error_ok (check_ne_error_ok (check_ne_error_ok ok_ne_error))

/-- Where the used carrier cells are as HIDE left them, extraction gives HIDE's ciphertext. -/
theorem extractBits_of_hidden {P : Ports} {s u : State}
    (hsame : SameInside (hidden P s).car u.car (hideOffset P s) (8 * paddedLen s.msgLen.toNat)) :
    u.extractBits (hideOffset P s) (paddedLen s.msgLen.toNat) = hideCiphertext P s := by
  refine List.ext_getElem (by rw [extractBits_length, hideCiphertext_length]) fun a ha hb => ?_
  rw [extractBits_getElem ((hidden_inserted P s).carries hsame) ha, hideCiphertext_getElem P s hb]

/-- REVEAL where the carrier holds an enciphered padded sequence passes its checks, and puts the sequence in MSG. -/
theorem revealWith_of_enciphered {P : Ports} (hinv : CipherInverse P) {u : State} {q : List Byte}
    (hkey : u.keyLoaded = true) (hplaced : u.placed = true) (hfit : paddedLen q.length ≤ bufCap u.params)
    (hlen : u.ctLen.toNat = paddedLen q.length) (hcar : u.carLenTooBig = false)
    (hroom : u.offset.toNat + 8 * u.ctLen.toNat ≤ u.carLen.toNat)
    (hread : u.extractBits u.offset.toNat u.ctLen.toNat = ecbEnc P u.keyBytes (pad q)) :
    revealWith P u = .ok ((u.memWrite .ct 0 (u.extractBits u.offset.toNat u.ctLen.toNat)).putPlaintext q) := by
  have hct : u.ctLenTooBig = false := (ctLenTooBig_false u).mpr (hlen ▸ hfit)
  have hpos : paddedLen q.length ≠ 0 := by simp [paddedLen]
  have hblocks : u.ctLenNotBlocks = false :=
    (ctLenNotBlocks_false u).mpr ⟨hlen ▸ hpos, hlen ▸ paddedLen_mod q.length⟩
  have hpadded : revealPadded P u = pad q := by
    rw [revealPadded, hread]
    exact ecb_leftInverse (hinv u.keyBytes) (pad_length_mod q)
  rw [revealWith_of_checks hkey hplaced hct hcar hblocks (placeCheck_of_fits hroom) (hpadded ▸ unpadValid_pad q), revealed,
    hpadded, unpad_pad]

/-- Settles O35: extraction gives HIDE's ciphertext, which deciphers to the padded message, and un-padding gives the
message. -/
theorem hideThenRevealRestoresMessage : Obligations.HideThenRevealRestoresMessage := by
  refine ⟨fun s => ⟨exec_eq_finish .hide s, exec_eq_finish .reveal s⟩, fun P hinv s t hwritten hhide hok => ?_⟩
  obtain ⟨w, hw, rfl⟩ := finish_next_ok (hideWith_ne_error_ok P s) hhide hok
  obtain ⟨hkey, hmsg, hcar, hroom, rfl⟩ := hideWith_ok P s w hw
  have hctLen := toNat_hideCiphertext_length P hmsg
  have hoffset := toNat_hideOffset P s
  intro u (hukey : u.key = s.key) (humask : u.keyMask = s.keyMask) (huparams : u.params = s.params)
    (huoff : u.offValid = true) (hulen : u.lenValid = true)
    (huctLen : u.ctLen = BitVec.ofNat 32 (hideCiphertext P s).length)
    (huoffset : u.offset = BitVec.ofNat 32 (hideOffset P s)) (hucarLen : u.carLen = s.carLen)
    (husame : SameInside (hidden P s).car u.car (BitVec.ofNat 32 (hideOffset P s)).toNat
      (8 * (BitVec.ofNat 32 (hideCiphertext P s).length).toNat))
  rw [hctLen, hoffset] at husame
  let q := s.memRead .msg 0 s.msgLen.toNat
  have hq : q.length = s.msgLen.toNat := State.memRead_length ..
  have huc : u.ctLen.toNat = paddedLen s.msgLen.toNat := huctLen ▸ hctLen
  have huo : u.offset.toNat = hideOffset P s := huoffset ▸ hoffset
  have hread : u.extractBits u.offset.toNat u.ctLen.toNat = ecbEnc P u.keyBytes (pad q) := by
    have hukeyBytes : u.keyBytes = s.keyBytes := congrArg Quad.bytes hukey
    rw [huo, huc, hukeyBytes]
    exact extractBits_of_hidden husame
  have hukeyLoaded : u.keyLoaded = true := (keyLoaded_true u).mpr (humask.trans ((keyLoaded_true s).mp hkey))
  have huplaced : u.placed = true := (placed_true u).mpr ⟨huoff, hulen⟩
  have hufit : paddedLen q.length ≤ bufCap u.params := hq ▸ huparams ▸ paddedLen_msgLen_le hmsg
  have hucar : u.carLenTooBig = false := by
    rw [carLenTooBig_false, hucarLen, huparams]
    exact (carLenTooBig_false s).mp hcar
  have huroom : u.offset.toNat + 8 * u.ctLen.toNat ≤ u.carLen.toNat := by
    rw [huo, huc, hucarLen]
    exact hideOffset_room P hroom
  have hreveal := revealWith_of_enciphered hinv hukeyLoaded huplaced hufit (hq ▸ huc) hucar huroom hread
  refine ⟨_, by rw [hreveal, finish_ok], rfl, ?_, ?_⟩
  · rw [State.completed_msgLen, State.putPlaintext_msgLen, hq, BitVec.ofNat_toNat, BitVec.setWidth_eq]
  · exact sameInside_writeRange_memRead u.msg hwritten

end Sys2Proof.Proofs

/-! The host's accesses and NOP (45_control.md): what a read and a write of each register and of each window do, IDLE and
BUSY, and which accesses the bus check lets pass. -/

namespace Sys2Proof.Proofs

open Sys2Proof Sys2Proof.Machine Sys2Proof.Safety

/-! ## NOP (R180) -/

/-- Settles O17: NOP's result is the state it starts in. -/
theorem nopCompletes : Obligations.NopCompletes := fun _ => exec_of_commandResult_ok rfl

/-! ## The address of a register (R71, R72) -/

/-- `a` is an aligned address in region REG, and its offset names `r`. -/
abbrev RegAddr (a : Word) (r : Reg) : Prop := a.toNat < 0x100 ∧ a.toNat % 4 = 0 ∧ regAt a.toNat = r

theorem regAddr_key (w : Fin 4) : RegAddr (BitVec.ofNat 32 (0x30 + 4 * w.val)) (.key w) := by
  revert w
  decide

theorem regAddr_blkIn (w : Fin 4) : RegAddr (BitVec.ofNat 32 (0x40 + 4 * w.val)) (.blkIn w) := by
  revert w
  decide

theorem regAddr_blkOut (w : Fin 4) : RegAddr (BitVec.ofNat 32 (0x50 + 4 * w.val)) (.blkOut w) := by
  revert w
  decide

/-- An aligned offset of BLK_OUT is that of one of its four words (R54). -/
theorem exists_blkOut_offset {a : Nat} (h4 : a % 4 = 0) (ha : 0x50 ≤ a ∧ a ≤ 0x5C) : ∃ w : Fin 4, a = 0x50 + 4 * w.val :=
  ⟨⟨(a - 0x50) / 4, by omega⟩, by simp only; omega⟩

/-- The offsets no register has (R72). -/
theorem regAddr_reserved {a : Nat} (h4 : a % 4 = 0) (ha : a = 0x28 ∨ a = 0x2C ∨ (0x60 ≤ a ∧ a ≤ 0xFC)) :
    RegAddr (BitVec.ofNat 32 a) .reserved := by
  have hnat : (BitVec.ofNat 32 a).toNat = a := (BitVec.toNat_ofNat a 32).trans (Nat.mod_eq_of_lt (by omega))
  rw [RegAddr, hnat]
  refine ⟨by omega, h4, ?_⟩
  simp only [regAt, ite_eq_iff, reduceCtorEq, and_false, false_or, and_true]
  omega

/-! ## Register accesses (R182 to R189) -/

section RegisterAccess

variable {s : State} {a : Word} {r : Reg}

/-- A write of a register is done while IDLE, and for STATUS and IRQEN while BUSY too. -/
theorem step_writeReg (ha : RegAddr a r) (hmay : s.eng = .idle ∨ writableBusy r = true) (v : Word) :
    step (withAccess s (.write a .word v)) = .next { writeReg s r v with answer := some .writeOkay } := by
  obtain ⟨hreg, h4, rfl⟩ := ha
  have hdone : (s.busy && !writableBusy (regAt a.toNat)) = false := by
    obtain hidle | hwritable := hmay
    · simp [State.busy, hidle]
    · simp [hwritable]
  simp [step_withAccess, hostAccess_writeReg s hreg h4, hdone]

/-- A read of a register answers its value while IDLE, and what R189 leaves of it while BUSY. -/
theorem step_readReg (ha : RegAddr a r) :
    step (withAccess s (.read a .word)) = .next
      { s with
        answer := some (.readOkay (if s.busy then readRegBusy s r (Config.anyWord s.tick) else readReg s r))
        tick := s.tick + 1 } := by
  obtain ⟨hreg, h4, rfl⟩ := ha
  simp [step_withAccess, hostAccess, hostRead, readValue, hostCheck, targetOf_reg _ _ hreg, h4]

theorem step_readReg_idle (ha : RegAddr a r) (hidle : s.eng = .idle) :
    step (withAccess s (.read a .word)) = .next { s with answer := some (.readOkay (readReg s r)), tick := s.tick + 1 } := by
  simp [step_readReg ha, State.busy, hidle]

theorem step_readReg_busy (ha : RegAddr a r) (hbusy : s.eng = .busy) :
    step (withAccess s (.read a .word)) = .next
      { s with answer := some (.readOkay (readRegBusy s r (Config.anyWord s.tick))), tick := s.tick + 1 } := by
  simp [step_readReg ha, State.busy, hbusy]

/-- A register that R189 does not name reads alike while IDLE and while BUSY. -/
theorem step_readReg_steady (ha : RegAddr a r) (hsteady : readRegBusy s r (Config.anyWord s.tick) = readReg s r) :
    step (withAccess s (.read a .word)) = .next { s with answer := some (.readOkay (readReg s r)), tick := s.tick + 1 } := by
  rw [step_readReg ha, hsteady, ite_self]

end RegisterAccess

/-! ### Writes (R183 to R187) -/

/-- Settles O42. -/
theorem statusWriteOneToClear : Obligations.StatusWriteOneToClear := by
  have hclear : ∀ flag bit : Bool, (flag && !bit) = if bit then false else flag := by decide
  intro s v
  rw [step_writeReg (r := .status) (by decide) (.inr rfl) v, writeReg, State.writeStatus, hclear, hclear]

/-- Settles O43: `irq` is the conjunction of DONE and DONE_IE. -/
theorem irqenWriteSetsEnable : Obligations.IrqenWriteSetsEnable := by
  intro s v
  refine ⟨_, step_writeReg (r := .irqen) (by decide) (.inr rfl) v, rfl, fun hdone hbit => ?_⟩
  simp only [State.irq, writeReg, State.writeIrqen_done, State.writeIrqen_doneIe, hdone, hbit, Bool.and_self]

/-- Bit `b` of KEYMASK after a write of KEYw: set by this write, or as it was (R41). -/
theorem writeKey_keyMask_getLsbD (s : State) (w b : Fin 4) (v : Word) :
    (s.writeKey w v).keyMask.getLsbD b.val = (s.keyMask.getLsbD b.val || b == w) := by
  have honly : ∀ w b : Fin 4, (1#4 <<< w.val).getLsbD b.val = (b == w) := by decide
  rw [State.writeKey_keyMask, BitVec.getLsbD_or, honly]

/-- Settles O44. -/
theorem keyWordWrite : Obligations.KeyWordWrite := by
  intro s w v hidle
  exact ⟨_, step_writeReg (regAddr_key w) (.inl hidle) v, rfl, Quad.get_set_same _ w v,
    fun w' hw => Quad.get_set_other _ w w' v hw, fun b => writeKey_keyMask_getLsbD s w b v⟩

/-- Settles O45. -/
theorem operandRegisterWrite : Obligations.OperandRegisterWrite := by
  intro s v hidle
  refine ⟨step_writeReg (r := .msgLen) (by decide) (.inl hidle) v, step_writeReg (r := .ctLen) (by decide) (.inl hidle) v,
    step_writeReg (r := .carLen) (by decide) (.inl hidle) v, step_writeReg (r := .offset) (by decide) (.inl hidle) v,
    fun w => ?_⟩
  exact ⟨_, step_writeReg (regAddr_blkIn w) (.inl hidle) v, rfl, Quad.get_set_same _ w v,
    fun w' hw => Quad.get_set_other _ w w' v hw⟩

/-- Settles O46: each of these offsets names a register that a write leaves as it is. -/
theorem readOnlyRegisterWriteIgnored : Obligations.ReadOnlyRegisterWriteIgnored := by
  intro s a v hidle h4 ha
  obtain rfl | rfl | rfl | hblkOut | hreserved := ha
  · exact step_writeReg (r := .id) (by decide) (.inl hidle) v
  · exact step_writeReg (r := .caps0) (by decide) (.inl hidle) v
  · exact step_writeReg (r := .caps1) (by decide) (.inl hidle) v
  · obtain ⟨w, rfl⟩ := exists_blkOut_offset h4 hblkOut
    exact step_writeReg (regAddr_blkOut w) (.inl hidle) v
  · exact step_writeReg (regAddr_reserved h4 hreserved) (.inl hidle) v

/-! ### Reads (R188, R189) -/

/-- IRQEN holds DONE_IE in bit 0 and 0 above it (R50). -/
theorem readReg_irqen (s : State) : readReg s .irqen = if s.doneIe then 1 else 0 := by
  cases h : s.doneIe <;> simp [readReg, bitAt, h]

/-- Settles O49: the offsets that R189 does not name read through `step_readReg_steady`. -/
theorem registerReadValues : Obligations.RegisterReadValues := by
  intro s
  refine ⟨step_readReg_steady (r := .id) (by decide) rfl, step_readReg_steady (r := .caps0) (by decide) rfl,
    step_readReg_steady (r := .caps1) (by decide) rfl, step_readReg_steady (r := .cmd) (by decide) rfl, ?irqen,
    step_readReg_steady (r := .carLen) (by decide) rfl, fun w => ⟨step_readReg_steady (regAddr_key w) rfl,
      step_readReg_steady (regAddr_blkIn w) rfl⟩, fun a h4 ha => step_readReg_steady (regAddr_reserved h4 ha) rfl, ?idle⟩
  case irqen =>
    rw [← readReg_irqen]
    exact step_readReg_steady (r := .irqen) (by decide) rfl
  case idle =>
    exact fun hidle => ⟨step_readReg_idle (r := .status) (by decide) hidle, step_readReg_idle (r := .msgLen) (by decide) hidle,
      step_readReg_idle (r := .ctLen) (by decide) hidle, step_readReg_idle (r := .offset) (by decide) hidle,
      fun w => step_readReg_idle (regAddr_blkOut w) hidle⟩

/-- STATUS as read while BUSY draws bits 20 and 21 alone (R189). -/
theorem statusWordBusy_getLsbD (s : State) (draw : Word) {n : Nat} (h20 : n ≠ 20) (h21 : n ≠ 21) :
    (statusWordBusy s draw).getLsbD n = (statusWord s).getLsbD n := by
  by_cases hn : n < 32
  · have hmasks : ∀ n < 32, n ≠ 20 → n ≠ 21 →
        (0xFFCFFFFF : Word).getLsbD n = true ∧ (0x00300000 : Word).getLsbD n = false := by decide
    obtain ⟨hkept, hdrawn⟩ := hmasks n hn h20 h21
    rw [statusWordBusy, BitVec.getLsbD_or, BitVec.getLsbD_and, BitVec.getLsbD_and, hkept, hdrawn, Bool.and_true,
      Bool.and_false, Bool.or_false]
  · rw [BitVec.getLsbD_of_ge _ n (by omega), BitVec.getLsbD_of_ge _ n (by omega)]

/-! ## Windows (R189 to R191) -/

section WindowAccess

variable {s : State} {b : Buffer} {i : Nat} {n : AccessSize}

/-- A window read that the bus accepts answers the access's draw while BUSY (R189). -/
theorem step_readWindow_busy (hbusy : s.eng = .busy) (hi : i < capacity s.params b) (hsize : n = .byte ∨ i % 4 = 0) :
    step (withAccess s (.read (windowAddr b i) n)) = .next
      { s with answer := some (.readOkay (readWindowBusy n (Config.anyWord s.tick))), tick := s.tick + 1 } := by
  have htgt := targetOf_windowAddr s.params b i hi
  simp [step_withAccess, hostAccess, hostRead, readValue, htgt, (hostCheck_window htgt n).mpr hsize, State.busy, hbusy]

/-- What a store in a window leaves alone: all but the buffers and the bus answer. -/
theorem memWrite_answer_frame (s : State) (b : Buffer) (i : Nat) (vs : List Byte) (an : Option BusAnswer) :
    ({ s.memWrite b i vs with answer := an } : State) =
      { s with msg := (s.memWrite b i vs).msg, ct := (s.memWrite b i vs).ct, car := (s.memWrite b i vs).car, answer := an } := by
  cases b <;> rfl

/-- A window write that the bus accepts stores its bytes from index `i` on, and nothing else (R190). -/
theorem writeWindow_stores (hidle : s.eng = .idle) (hi : i < capacity s.params b) (hsize : n = .byte ∨ i % 4 = 0) (v : Word) :
    ∃ t, step (withAccess s (.write (windowAddr b i) n v)) = .next t
      ∧ t = { s with msg := t.msg, ct := t.ct, car := t.car, answer := some .writeOkay }
      ∧ (∀ k, (hk : k < (writeBytes n v).length) → (t.buf b).read (i + k) = some (writeBytes n v)[k])
      ∧ SameOutside (s.buf b) (t.buf b) i (writeBytes n v).length
      ∧ ∀ b', b' ≠ b → t.buf b' = s.buf b' := by
  have hbuf : ∀ b', ({ s.memWrite b i (writeBytes n v) with answer := some .writeOkay } : State).buf b'
      = (s.memWrite b i (writeBytes n v)).buf b' := fun _ => rfl
  refine ⟨_, step_writeWindow hidle hi hsize v, memWrite_answer_frame .., fun k hk => ?_, ?_, fun b' hb => ?_⟩
  · rw [hbuf, State.memWrite_buf_same, Memory.read_writeRange_inside _ _ _ _ hk]
  · rw [hbuf, State.memWrite_buf_same]
    exact sameOutside_writeRange _ _ _
  · rw [hbuf, State.memWrite_buf_other _ _ _ _ _ hb]

end WindowAccess

/-- Settles O50: the registers R189 names and both sizes of a window read. -/
theorem readWhileBusy : Obligations.ReadWhileBusy := by
  intro s hbusy
  exact ⟨⟨_, step_readReg_busy (r := .status) (by decide) hbusy, fun _ h20 h21 => statusWordBusy_getLsbD s _ h20 h21⟩,
    step_readReg_busy (r := .msgLen) (by decide) hbusy, step_readReg_busy (r := .ctLen) (by decide) hbusy,
    step_readReg_busy (r := .offset) (by decide) hbusy, fun w => step_readReg_busy (regAddr_blkOut w) hbusy,
    fun b i hi => ⟨step_readWindow_busy hbusy hi (.inl rfl), fun h4 => step_readWindow_busy hbusy hi (.inr h4)⟩⟩

/-- Settles O51: the bytes stored are lane 0, or the four lanes. -/
theorem windowWrite : Obligations.WindowWrite := by
  refine fun s b i v hidle hi => ⟨?byte, fun h4 => ?word⟩
  case byte =>
    obtain ⟨t, hstep, hframe, hstored, houtside, hothers⟩ := writeWindow_stores hidle hi (.inl rfl) v
    exact ⟨t, hstep, hframe, hstored 0 Nat.zero_lt_one, houtside, hothers⟩
  case word =>
    obtain ⟨t, hstep, hframe, hstored, houtside, hothers⟩ := writeWindow_stores hidle hi (.inr h4) v
    refine ⟨t, hstep, hframe, fun k hk => ?_, houtside, hothers⟩
    rw [hstored k hk, writeBytes_word_getElem v hk, lane]

/-- Settles O52. -/
theorem windowRead : Obligations.WindowRead := fun s b i hidle hi =>
  ⟨step_readWindow hidle hi (.inl rfl),
    fun h4 => ⟨_, step_readWindow hidle hi (.inr h4), fun _ hk => lane_readWindow_word s b i hk⟩⟩

/-! ## The bus check (R181, R218) -/

theorem targetOf_eq_reg {p : Params} {a : Word} {off : Nat} (h : targetOf p a = .reg off) :
    a.toNat < 0x100 ∧ off = a.toNat := by
  simp only [targetOf, ite_eq_iff, Target.reg.injEq, reduceCtorEq, and_false, or_false] at h
  obtain ⟨hreg, rfl⟩ := h
  exact ⟨hreg, rfl⟩

/-- The addresses that name something are those of the four regions (R71). -/
theorem targetOf_ne_unmapped_iff (p : Params) (a : Word) : targetOf p a ≠ .unmapped ↔ Mapped p a := by
  simp only [targetOf, inWindow_iff, regEnd, windowBase, capacity]
  split_ifs <;> simp only [ne_eq, reduceCtorEq, not_false_eq_true, not_true_eq_false, true_iff, false_iff] <;> omega

/-- The bus check passes exactly the accesses that R218 does not answer with bus error. -/
theorem hostCheck_iff_not_busError (p : Params) (a : Word) (n : AccessSize) : hostCheck p a n = true ↔ ¬ BusError p a n := by
  have hmapped := targetOf_ne_unmapped_iff p a
  cases htgt : targetOf p a with
  | unmapped =>
    have hnot : ¬ Mapped p a := fun h => hmapped.mpr h htgt
    simp only [hostCheck, htgt, Bool.false_eq_true, BusError, hnot, not_false_eq_true, true_or, not_true_eq_false]
  | reg off =>
    have hin : Mapped p a := hmapped.mp (by simp [htgt])
    obtain ⟨hreg, -⟩ := targetOf_eq_reg htgt
    have hlow : a.toNat ≤ 0xFF := by omega
    cases n <;> simp [hostCheck, htgt, BusError, hin, hlow]
  | window b i =>
    have hin : Mapped p a := hmapped.mp (by simp [htgt])
    obtain ⟨ha, -⟩ := targetOf_eq_window htgt
    have hbase := windowBase_mod_four b
    have hhigh : 0xFF < a.toNat := by cases b <;> simp only [windowBase] at ha <;> omega
    rw [hostCheck_window htgt]
    cases n with
    | byte => simp [BusError, hin, hhigh]
    | word =>
      have h4 : a.toNat % 4 = i % 4 := by omega
      simp [BusError, hin, hhigh, h4]

/-! ## Writes while BUSY (R182) -/

theorem regAt_eq_status {off : Nat} (h : regAt off = .status) : off = 0x10 := by
  simp only [regAt, ite_eq_iff, reduceCtorEq, and_true, and_false, false_or, or_false] at h
  omega

theorem regAt_eq_irqen {off : Nat} (h : regAt off = .irqen) : off = 0x14 := by
  simp only [regAt, ite_eq_iff, reduceCtorEq, and_true, and_false, false_or, or_false] at h
  omega

/-- The addresses a write while BUSY is done at are STATUS and IRQEN alone. -/
theorem writableBusy_address {a : Word} (h : writableBusy (regAt a.toNat) = true) : a = 0x10 ∨ a = 0x14 :=
  ((writableBusy_iff _).mp h).imp (fun hr => BitVec.eq_of_toNat_eq (regAt_eq_status hr))
    fun hr => BitVec.eq_of_toNat_eq (regAt_eq_irqen hr)

theorem writeEffect_dropped {s : State} {a : Word} {n : AccessSize} (hbusy : s.eng = .busy)
    (hcheck : hostCheck s.params a n = true) (hstatus : a ≠ 0x10) (hirqen : a ≠ 0x14) (v : Word) :
    writeEffect s a n v = s.dropWrite := by
  have hb : s.busy = true := by simp [State.busy, hbusy]
  cases htgt : targetOf s.params a with
  | reg off =>
    obtain ⟨-, rfl⟩ := targetOf_eq_reg htgt
    have hno : writableBusy (regAt a.toNat) = false :=
      Bool.eq_false_iff.mpr fun h => (writableBusy_address h).elim hstatus hirqen
    simp [writeEffect, htgt, hb, hno]
  | window b i => simp [writeEffect, htgt, hb]
  | unmapped => simp [hostCheck, htgt] at hcheck

/-- Settles O41. -/
theorem writeWhileBusyIsDropped : Obligations.WriteWhileBusyIsDropped := by
  intro s a n v hbusy hpass hstatus hirqen
  have hcheck := (hostCheck_iff_not_busError s.params a n).mpr hpass
  simp [step_withAccess, hostAccess, hostWrite, hcheck, writeEffect_dropped hbusy hcheck hstatus hirqen, State.dropWrite]

end Sys2Proof.Proofs

/-! Exceptions and the interrupt (60_exceptions.md): which codes a step can record, that an error writes the completion fields
alone, which accesses the bus refuses, and what moves `irq`. -/

namespace Sys2Proof.Proofs

open Sys2Proof Sys2Proof.Machine Sys2Proof.Safety

/-! ## The engine's turn (R208, R213, R225) -/

theorem engineStep_idle {s : State} (hidle : s.eng = .idle) : engineStep s = .next s := by simp [engineStep, hidle]

/-- The engine's turn never faults and is never refused, BUSY or IDLE. -/
theorem engineStep_answers (s : State) : ∃ t, engineStep s = .next t := by
  cases heng : s.eng with
  | idle => exact ⟨s, engineStep_idle heng⟩
  | busy =>
    obtain ⟨u, code, hstep, -⟩ := engineStep_completes heng
    exact ⟨_, hstep⟩

/-- Settles O7: resets and host accesses answer by what they are, the engine's turn because its codes are never forbidden. -/
theorem everyStepAnswersNext : Obligations.EveryStepAnswersNext := by
  intro s
  obtain ⟨-, hstep⟩ | ⟨rest, -, hstep⟩ | ⟨rest, -, hstep⟩ | ⟨a, rest, -, hstep⟩ := step_cases s
  · rw [hstep]; exact engineStep_answers s
  · rw [hstep]; exact engineStep_answers _
  · exact ⟨_, hstep⟩
  · exact ⟨_, hstep⟩

/-- Settles O6. -/
theorem idleEngineDoesNothing : Obligations.IdleEngineDoesNothing := by
  intro s rest hidle hturn
  rw [step_engineTurn s rest hturn]
  exact engineStep_idle hidle

/-- Settles O5: such a word is one the decoder calls ILLEGAL. -/
theorem illegalCommandWritesOnlyCompletionFields : Obligations.IllegalCommandWritesOnlyCompletionFields := by
  intro s rest hbusy hturn hword
  obtain ⟨-, hillegal, hrun⟩ := decodeFollowsFields
  have hnot : ¬ (s.cmd.extractLsb' 4 28 = 0 ∧ (s.cmd.extractLsb' 0 4).toNat ≤ 0xA) := fun ⟨hrsv, hop⟩ =>
    hword.elim (· hrsv) fun hgt => Nat.not_lt.mpr hop hgt
  obtain ⟨e, hdec⟩ := hillegal s.cmd hnot
  obtain ⟨-, hcomplete⟩ := hrun s rest hbusy hturn
  exact hcomplete e hdec

/-! ## The codes a step records (R202, R207, R211) -/

theorem bits_of_not_forbidden {code : ErrCode} (h : forbidden code = false) :
    code.bits ≠ 0x2 ∧ code.bits ≠ 0x7 ∧ code.bits.toNat ≤ 0xA := by
  revert h
  cases code <;> decide

theorem exec_not_forbidden {i : Instr} {s t : State} (h : exec i s = .next t) : forbidden t.errCode = false := by
  obtain ⟨u, -, rfl⟩ | ⟨code, herr, rfl⟩ := exec_next h
  · rfl
  · exact commandResult_error i s code herr

theorem writeReg_errCode (s : State) (r : Reg) (v : Word) :
    (writeReg s r v).errCode = s.errCode ∨ (writeReg s r v).errCode = .ok := by
  cases r with
  | cmd => exact .inr rfl
  | _ => exact .inl rfl

/-- A host access changes ERRCODE only as a command start, which clears it (R107). -/
theorem hostAccess_errCode (s : State) (a : HostAccess) :
    (hostAccess s a).errCode = s.errCode ∨ (hostAccess s a).errCode = .ok := by
  obtain ⟨_, _, heq⟩ | ⟨_, heq⟩ | ⟨_, b, i, vs, heq⟩ | ⟨_, off, v, -, -, -, heq⟩ := hostAccess_cases s a
  · simp [heq]
  · simp [heq]
  · simp [heq]
  · rw [heq]; exact writeReg_errCode s (regAt off.val) v

theorem step_errCode {s t : State} (h : step s = .next t) : t.errCode = s.errCode ∨ forbidden t.errCode = false := by
  obtain ⟨rest, -, heng⟩ | ⟨rest, -, rfl⟩ | ⟨a, rest, -, rfl⟩ := step_next h
  · obtain ⟨-, rfl⟩ | ⟨-, ⟨i, hexec⟩ | rfl⟩ := engineStep_next heng
    · exact .inl rfl
    · exact .inr (exec_not_forbidden hexec)
    · exact .inr rfl
  · exact .inr rfl
  · exact (hostAccess_errCode { s with events := rest } a).imp_right fun hok => by rw [hok]; rfl

/-- Settles O11. -/
theorem forbiddenAndReservedCodesNeverWritten : Obligations.ForbiddenAndReservedCodesNeverWritten :=
  ⟨rfl, rfl, fun _ _ h => (step_errCode h).imp_right bits_of_not_forbidden⟩

/-! ## Errors are precise (R214) -/

/-- A command that records a nonzero code has thrown its result away (R111). -/
theorem exec_error {i : Instr} {s t : State} (h : exec i s = .next t) (hcode : t.errCode ≠ .ok) :
    t = s.completed t.errCode := by
  obtain ⟨u, -, rfl⟩ | ⟨code, -, rfl⟩ := exec_next h
  · exact absurd rfl hcode
  · rfl

theorem engineStep_error {s t : State} (hbusy : s.eng = .busy) (h : engineStep s = .next t) (hcode : t.errCode ≠ .ok) :
    t = s.completed t.errCode := by
  obtain ⟨hidle, -⟩ | ⟨-, ⟨i, hexec⟩ | rfl⟩ := engineStep_next h
  · exact (not_idle_and_busy hidle hbusy).elim
  · exact exec_error hexec hcode
  · rfl

/-- Settles O13. -/
theorem errorsArePrecise : Obligations.ErrorsArePrecise := by
  intro s t rest hbusy hturn h hcode
  rw [step_engineTurn s rest hturn] at h
  exact engineStep_error (s := { s with events := rest }) hbusy h hcode

/-! ## The key check (R121, R201, R212) -/

/-- The six commands whose first check is `keyCheck` (R121). -/
abbrev NeedsKey (i : Instr) : Prop :=
  i = .encBlock ∨ i = .decBlock ∨ i = .encrypt ∨ i = .decrypt ∨ i = .hide ∨ i = .reveal

/-- A check raises its own code alone: any other code could come only from what follows it. -/
theorem check_ne_error {p : Prop} [Decidable p] {code raised : ErrCode} {r : Except ErrCode State} (hrest : r ≠ .error code)
    (hraised : raised ≠ code := by decide) : (if p then .error raised else r) ≠ .error code := by
  split
  · exact fun h => hraised (Except.error.inj h)
  · exact hrest

/-- The placement check raises no InvalidKeyLength (R151). -/
theorem placeCheck_ne_invalidKeyLength {c S o : Nat} {r : Except ErrCode State} (hrest : r ≠ .error .invalidKeyLength) :
    (match placeCheck c S o with | some code => Except.error code | none => r) ≠ .error .invalidKeyLength := by
  split
  case h_1 code hplace => obtain ⟨rfl, -⟩ | ⟨rfl, -⟩ := placeCheck_some c S o code hplace <;> simp
  case h_2 => exact hrest

/-- A command that needs the key checks it before all else, and nothing behind that check raises InvalidKeyLength. -/
theorem commandResult_keyCheck {i : Instr} (hneeds : NeedsKey i) (s : State) :
    ∃ r, r ≠ .error .invalidKeyLength ∧ commandResult i s = if !s.keyLoaded then .error .invalidKeyLength else r := by
  cases i with
  | encBlock => exact ⟨_, ok_ne_error, rfl⟩
  | decBlock => exact ⟨_, ok_ne_error, rfl⟩
  | encrypt => exact ⟨_, check_ne_error ok_ne_error, rfl⟩
  | decrypt => exact ⟨_, check_ne_error (check_ne_error (check_ne_error ok_ne_error)), rfl⟩
  | hide => exact ⟨_, check_ne_error (check_ne_error ok_ne_error), rfl⟩
  | reveal =>
    exact ⟨_, check_ne_error (check_ne_error (check_ne_error
      (placeCheck_ne_invalidKeyLength (check_ne_error ok_ne_error)))), rfl⟩
  | _ => exact absurd hneeds (by decide)

/-- The other five commands never raise InvalidKeyLength. -/
theorem commandResult_noKeyCheck {i : Instr} (hneeds : ¬ NeedsKey i) (s : State) :
    commandResult i s ≠ .error .invalidKeyLength := by
  cases i with
  | nop => exact ok_ne_error
  | pad => exact check_ne_error ok_ne_error
  | unpad => exact check_ne_error (check_ne_error ok_ne_error)
  | embed => exact check_ne_error (check_ne_error (placeCheck_ne_invalidKeyLength ok_ne_error))
  | extract => exact check_ne_error (check_ne_error (placeCheck_ne_invalidKeyLength ok_ne_error))
  | _ => exact absurd (by decide) hneeds

theorem commandResult_invalidKeyLength_iff (i : Instr) (s : State) :
    commandResult i s = .error .invalidKeyLength ↔ s.keyMask ≠ 0xF#4 ∧ NeedsKey i := by
  by_cases hneeds : NeedsKey i
  · obtain ⟨r, hr, heq⟩ := commandResult_keyCheck hneeds s
    cases hkey : s.keyLoaded with
    | false => simp [heq, hkey, (keyLoaded_false s).mp hkey, hneeds]
    | true => simp [heq, hkey, hr, (keyLoaded_true s).mp hkey]
  · exact iff_of_false (commandResult_noKeyCheck hneeds s) fun ⟨_, h⟩ => hneeds h

/-- A nonzero code is recorded exactly where the command raises it. -/
theorem exec_errCode_iff {i : Instr} {s t : State} {code : ErrCode} (h : exec i s = .next t) (hcode : code ≠ .ok) :
    t.errCode = code ↔ commandResult i s = .error code := by
  obtain ⟨u, hres, rfl⟩ | ⟨raised, hres, rfl⟩ := exec_next h
  · rw [hres]
    exact iff_of_false hcode.symm ok_ne_error
  · rw [hres, State.completed_errCode, Except.error.injEq]

/-- Settles O29. -/
theorem invalidKeyLengthExactlyWithoutKey : Obligations.InvalidKeyLengthExactlyWithoutKey := fun i s _ h =>
  (exec_errCode_iff h (by decide)).trans (commandResult_invalidKeyLength_iff i s)

/-! ## Bus errors (R181, R218) -/

section BusCheck

variable {s : State} {a : Word} {n : AccessSize}

theorem step_write_refused (hcheck : hostCheck s.params a n = false) (v : Word) :
    step (withAccess s (.write a n v)) = .next { s with answer := some .writeError } := by
  simp [step_withAccess, hostAccess, hostWrite, hcheck]

theorem step_write_passed (hcheck : hostCheck s.params a n = true) (v : Word) :
    step (withAccess s (.write a n v)) = .next { writeEffect s a n v with answer := some .writeOkay } := by
  simp [step_withAccess, hostAccess, hostWrite, hcheck]

theorem step_read_refused (hcheck : hostCheck s.params a n = false) :
    step (withAccess s (.read a n)) = .next
      { s with answer := some (.readError (Config.anyWord s.tick)), tick := s.tick + 1 } := by
  simp [step_withAccess, hostAccess, hostRead, hcheck]

theorem step_read_passed (hcheck : hostCheck s.params a n = true) :
    step (withAccess s (.read a n)) = .next { s with answer := some (.readOkay (readValue s a n)), tick := s.tick + 1 } := by
  simp [step_withAccess, hostAccess, hostRead, hcheck]

end BusCheck

/-- Settles O40: the bus check decides the answer. -/
theorem busErrorExactlyWhenAndChangesNothing : Obligations.BusErrorExactlyWhenAndChangesNothing := by
  intro s a n v
  have hcheck := hostCheck_iff_not_busError s.params a n
  split
  case isTrue hbus =>
    have hrefused : hostCheck s.params a n = false := Bool.eq_false_iff.mpr fun h => hcheck.mp h hbus
    exact ⟨step_write_refused hrefused v, _, step_read_refused hrefused⟩
  case isFalse hpass => exact ⟨⟨_, step_write_passed (hcheck.mpr hpass) v, rfl⟩, _, step_read_passed (hcheck.mpr hpass)⟩

/-! ## The interrupt (R216, R217) -/

theorem writeReg_irq (s : State) (r : Reg) (v : Word) :
    (writeReg s r v).irq = s.irq
      ∨ (r = .cmd ∧ (writeReg s r v).irq = false)
      ∨ (r = .status ∧ (writeReg s r v).irq = (s.irq && !v.getLsbD 1))
      ∨ (r = .irqen ∧ (writeReg s r v).irq = (s.done && v.getLsbD 0)) := by
  cases r with
  | cmd => exact .inr (.inl ⟨rfl, rfl⟩)
  | status => exact .inr (.inr (.inl ⟨rfl, Bool.and_right_comm ..⟩))
  | irqen => exact .inr (.inr (.inr ⟨rfl, rfl⟩))
  | _ => exact .inl rfl

/-- The host accesses that can move `irq`: a command start, a write of STATUS, a write of IRQEN. -/
theorem hostAccess_irq (s : State) (a : HostAccess) :
    (hostAccess s a).irq = s.irq
      ∨ (∃ v, a = .write 0x0C .word v ∧ s.eng = .idle ∧ (hostAccess s a).irq = false)
      ∨ (∃ v, a = .write 0x10 .word v ∧ (hostAccess s a).irq = (s.irq && !v.getLsbD 1))
      ∨ (∃ v, a = .write 0x14 .word v ∧ (hostAccess s a).irq = (s.done && v.getLsbD 0)) := by
  obtain ⟨_, _, heq⟩ | ⟨_, heq⟩ | ⟨_, b, i, vs, heq⟩ | ⟨_, off, v, rfl, -, hmay, heq⟩ := hostAccess_cases s a
  · exact .inl (by rw [heq]; rfl)
  · exact .inl (by rw [heq]; rfl)
  · exact .inl (by simp [heq, State.irq])
  · rw [heq]
    obtain hsame | ⟨hreg, hirq⟩ | ⟨hreg, hirq⟩ | ⟨hreg, hirq⟩ := writeReg_irq s (regAt off.val) v
    · exact .inl hsame
    · exact .inr (.inl ⟨v, by rw [regAt_eq_cmd hreg]; rfl, by simpa [hreg, writableBusy] using hmay, hirq⟩)
    · exact .inr (.inr (.inl ⟨v, by rw [regAt_eq_status hreg]; rfl, hirq⟩))
    · exact .inr (.inr (.inr ⟨v, by rw [regAt_eq_irqen hreg]; rfl, hirq⟩))

/-- A completion leaves ENG IDLE and `irq` at the level of DONE_IE (R112, R216). -/
theorem exec_irq {i : Instr} {s t : State} (h : exec i s = .next t) : t.eng = .idle ∧ t.irq = s.doneIe := by
  obtain ⟨-, -, -, -, hie, -⟩ := engineNeverWritesHostState i s t h
  refine ⟨?_, by rw [State.irq, exec_done h, hie, Bool.true_and]⟩
  obtain ⟨u, -, rfl⟩ | ⟨code, -, rfl⟩ := exec_next h <;> rfl

/-- The engine's turn moves `irq` only by completing. -/
theorem engineStep_irq {s t : State} (h : engineStep s = .next t) :
    t.irq = s.irq ∨ (s.eng = .busy ∧ t.eng = .idle ∧ t.irq = s.doneIe) := by
  obtain ⟨-, rfl⟩ | ⟨hbusy, ⟨i, hexec⟩ | rfl⟩ := engineStep_next h
  · exact .inl rfl
  · exact .inr ⟨hbusy, exec_irq hexec⟩
  · exact .inr ⟨hbusy, rfl, Bool.true_and _⟩

theorem irq_eq_true (s : State) : s.irq = true ↔ s.done = true ∧ s.doneIe = true := Bool.and_eq_true_iff

/-- A level that stays neither rises nor falls. -/
theorem level_unmoved {old new : Bool} {rises falls : Prop} (h : new = old) :
    (old = false → new = true → rises) ∧ (old = true → new = false → falls) := by
  subst h
  exact ⟨fun hlow hhigh => (nomatch hlow.symm.trans hhigh), fun hhigh hlow => (nomatch hhigh.symm.trans hlow)⟩

/-- Settles O57, by what the step is. -/
theorem irqChangesOnlyAtItsCauses : Obligations.IrqChangesOnlyAtItsCauses := by
  intro s t h
  obtain ⟨rest, hturn, heng⟩ | ⟨rest, hrst, rfl⟩ | ⟨a, rest, hev, rfl⟩ := step_next h
  · obtain hsame | ⟨hbusy, hidle, hirq⟩ := engineStep_irq heng
    · exact level_unmoved hsame
    · refine ⟨fun _ hhigh => .inl ⟨hbusy, ⟨rest, hturn⟩, hidle, hirq.symm.trans hhigh⟩, fun hhigh hlow => ?_⟩
      obtain ⟨-, hie⟩ := (irq_eq_true s).mp hhigh
      exact nomatch (hirq.trans hie).symm.trans hlow
  · exact ⟨fun _ hhigh => (nomatch hhigh), fun _ _ => .inr (.inr (.inr ⟨rest, hrst⟩))⟩
  · obtain hsame | ⟨v, rfl, hidle, hirq⟩ | ⟨v, rfl, hirq⟩ | ⟨v, rfl, hirq⟩ := hostAccess_irq { s with events := rest } a
    · exact level_unmoved hsame
    · exact ⟨fun _ hhigh => (nomatch hirq.symm.trans hhigh), fun _ _ => .inr (.inl ⟨v, rest, hev, hidle⟩)⟩
    · refine ⟨fun hlow hhigh => ?_, fun hhigh hlow => .inl ⟨v, rest, hev, ?_⟩⟩
      · obtain ⟨hwas, -⟩ := Bool.and_eq_true_iff.mp (hirq.symm.trans hhigh)
        exact nomatch hlow.symm.trans hwas
      · obtain hwas | hbit := Bool.and_eq_false_iff.mp (hirq.symm.trans hlow)
        · exact nomatch hwas.symm.trans hhigh
        · simpa using hbit
    · refine ⟨fun _ hhigh => .inr ?_, fun hhigh hlow => .inr (.inr (.inl ⟨v, rest, hev, ?_⟩))⟩
      · obtain ⟨hdone, hbit⟩ := Bool.and_eq_true_iff.mp (hirq.symm.trans hhigh)
        exact ⟨v, rest, hev, hbit, hdone⟩
      · obtain ⟨hdone, -⟩ := (irq_eq_true s).mp hhigh
        obtain hnot | hbit := Bool.and_eq_false_iff.mp (hirq.symm.trans hlow)
        · exact nomatch hdone.symm.trans hnot
        · exact hbit

end Sys2Proof.Proofs

/-! What a reset leaves behind (70_reset_and_hazards.md). -/

namespace Sys2Proof.Proofs

open Sys2Proof Sys2Proof.Machine

@[simp] theorem statusWord_reset : statusWord State.reset = 0 := by decide

@[simp] theorem resetStep_statusWord (s : State) : statusWord s.resetStep = 0 :=
  calc statusWord s.resetStep
    _ = statusWord State.reset := rfl
    _ = 0 := statusWord_reset

@[simp] theorem resetStep_buf (s : State) (b : Buffer) : s.resetStep.buf b = [] :=
  calc s.resetStep.buf b
    _ = State.reset.buf b := by cases b <;> rfl
    _ = [] := reset_buf b

/-- Settles O56: the step is `resetStep`, which keeps only configuration, draw counter and pending events of the old state. -/
theorem resetTakesEveryFieldToItsValue : Obligations.ResetTakesEveryFieldToItsValue := by
  intro s rest hrst
  refine ⟨_, step_reset hrst, rfl, rfl, rfl, rfl, rfl, rfl, resetStep_statusWord _, rfl, rfl, fun w => ?_, fun b a => ?_⟩
  · exact ⟨Quad.get_zero w, Quad.get_zero w, Quad.get_zero w⟩
  · rw [resetStep_buf]
    rfl

end Sys2Proof.Proofs
